-- ==== Sys2Proof/Word.lean ====
section
/-! DEFINITION. The words of the machine: one 64-bit carrier for a value of XLEN bits, the 32-bit
instruction word, and the field types of its encodings (spec/00_scope.md R5, R11; spec/30_encoding.md R111). -/

namespace Sys2Proof

/-- The carrier of an XLEN-bit value. With XLEN = 32 the value stands in bits 31:0 and bits 63:32 are
zero (`Sys2Proof.Machine.norm`); with XLEN = 64 it is the value itself (R4, R11). -/
abbrev Word := BitVec 64

/-- A 32-bit instruction word (R110). -/
abbrev Insn := BitVec 32

/-- A 5-bit integer register number (R114). -/
abbrev Reg := BitVec 5

/-- A 12-bit CSR address (R113). -/
abbrev CsrAddr := BitVec 12

/-- A 10-bit custom function identifier (R112). -/
abbrev CfId := BitVec 10

/-- The width of an integer register, parameter `XLEN` (R4). -/
inductive Xlen where
  | rv32
  | rv64
  deriving DecidableEq, Repr

end Sys2Proof
end

