-- ==== Sys2Proof/Config.lean ====
section
/-! DEFINITION. The configuration of spec/00_scope.md R4 and R8 as plain data, the constants with no
body that stand for what an implementation or an extension decides, and the free values (`UNSPEC`)
of R12. -/

namespace Sys2Proof

/-- Privilege levels (R25). -/
inductive Priv where
  | user
  | supervisor
  | machine
  deriving DecidableEq, Repr

/-- Parameter `MODES`: the set of implemented levels (R4). -/
inductive Modes where
  | m
  | mu
  | msu
  deriving DecidableEq, Repr

/-- Parameter `CXIDX_PRIV` (R4, R84): the normative "next higher privilege level", or the NOTE's
"machine mode privilege level". -/
inductive CxidxRule where
  | nextHigher
  | machine
  deriving DecidableEq, Repr

/-- Parameter `MTVAL_ON_ILLEGAL` (R343). -/
inductive MtvalRule where
  | insn
  | zero
  deriving DecidableEq, Repr

/-- The kinds of memory access that protection tells apart (R324). -/
inductive AccessKind where
  | fetch
  | load
  | store
  deriving DecidableEq, Repr

/-- A range of byte addresses `lo ≤ a < hi` that one level may not access in one way. `paged` says that
the refusal is a page fault of a host with virtual memory (R303 code 13). -/
structure DenyRange where
  level : Priv
  kind : AccessKind
  lo : Nat
  hi : Nat
  paged : Bool
  deriving DecidableEq, Repr

/-- Parameter `MemAllowed` (R324): a list of refused ranges, or a predicate given by a constant with no
body. -/
inductive MemPolicy where
  | ranges (refused : List DenyRange)
  | other (id : Nat)
  deriving DecidableEq, Repr

/-- The four CX CSR access functions `CSRR`, `CSRRW`, `CSRRS`, `CSRRC` (R181). -/
inductive CsrFn where
  | read
  | write
  | set
  | clear
  deriving DecidableEq, Repr

/-- A FUNC_ID: a CF_ID or a CX CSR access function (R66, R181). -/
inductive FuncId where
  | cf (id : CfId)
  | csr (fn : CsrFn)
  deriving DecidableEq, Repr

/-- The response status of a custom operation of an extension (R8). -/
inductive CxResp where
  | ok
  | op
  | cu
  deriving DecidableEq, Repr, Inhabited

/-- The opaque `State` of one state context of an extension (R8), as a list of words. -/
abbrev CxState := List Word

/-- What a custom function or CX CSR of a stateful extension returns (R8): response data, status, new
state, new `cxs_error` value. -/
structure CxResult where
  data : Word
  status : CxResp
  st : CxState
  err : Word
  deriving DecidableEq, Repr, Inhabited

/-- Which functions an extension computes: one of the two extensions of the reference configuration
(spec/95_test_vectors.md sections 2.2, 2.3), or one given by constants with no body. -/
inductive ExtKind where
  | tsl
  | tcx
  | other (id : Nat)
  deriving DecidableEq, Repr

/-- The plain data of a configured extension (R8). It is stateless exactly when `nContexts = 0`. -/
structure ExtConfig where
  /-- the functions of the extension -/
  kind : ExtKind
  /-- CX_GUID -/
  cxGuid : BitVec 128
  /-- CXU_GUID -/
  cxuGuid : BitVec 128
  /-- configured number of state contexts, 0..256 (R7) -/
  nContexts : Nat
  /-- the non-zero STATE_IDs a stateless extension accepts, one bit each (R8, U5) -/
  statelessStates : BitVec 256
  /-- the valid CF_IDs of the extension's own functions (R8) -/
  validCfs : List CfId
  /-- the valid addresses of the extension's own CX CSRs (R8) -/
  validCsrs : List CsrAddr
  /-- implemented bits of `cxs_error` (R52) -/
  errorW : Nat
  /-- implemented bits of `scxs_index.index` (R56) -/
  indexW : Nat
  /-- whether it provides the identity CX CSRs (R262) -/
  identity : Bool
  deriving DecidableEq, Repr

/-- The two sets of identity CX CSRs (R58). -/
inductive GuidSet where
  | cx
  | cxu
  deriving DecidableEq, Repr

/-- One identity CX CSR: word `word` of the extension's or the CXU's 128-bit identifier (R262). -/
structure GuidCsr where
  addr : CsrAddr
  which : GuidSet
  word : Nat
  deriving DecidableEq, Repr

/-- The bit layout of the state status word, `StatusWordPack` and `StatusWordUnpack` (R282): the test
layout of spec/95_test_vectors.md 2.1, or one given by constants with no body. -/
inductive StatusLayout where
  | test
  | other (id : Nat)
  deriving DecidableEq, Repr

/-- A configuration (R4): fixed for the machine, changed by no step. -/
structure Config where
  xlen : Xlen
  modes : Modes
  /-- `HAS_ACCESS_CONTROL` -/
  accessControl : Bool
  /-- `CXIDX_PRIV` -/
  cxidxRule : CxidxRule
  /-- `CXU_MAP` -/
  cxus : List (BitVec 8 × ExtConfig)
  /-- `CF_ID_READ_STATUS` -/
  cfReadStatus : CfId
  /-- `CF_ID_WRITE_STATUS` -/
  cfWriteStatus : CfId
  /-- `CF_ID_READ_STATE` -/
  cfReadState : CfId
  /-- `CF_ID_WRITE_STATE` -/
  cfWriteState : CfId
  /-- `StatusWordPack`, `StatusWordUnpack` -/
  statusLayout : StatusLayout
  /-- `GUID_CSR_ADDR` -/
  guidCsrs : List GuidCsr
  /-- `MTVAL_ON_ILLEGAL` -/
  mtvalRule : MtvalRule
  /-- `MemAllowed` -/
  memPolicy : MemPolicy
  /-- `PA_BITS`: implemented bits of `mcx_table.base_page` -/
  basePageBits : Nat
  /-- `BUILTIN`: none, or the built-in custom instructions given by a constant with no body -/
  builtin : Option Nat
  deriving DecidableEq, Repr

/-! ### Free values (R12 `UNSPEC_N`; notes/assumptions/3.md). Each is applied to the draw counter. -/

/-- A value the spec does not determine (`UNSPEC_XLEN` and narrower). -/
opaque Config.freeWord : Nat → Word

/-- The content of a state context that has been turned off (R251). -/
opaque Config.freeCxState : Nat → CxState

/-- `reset_steps`: how long a state context reset stays in progress (R249, U13). -/
opaque Config.freeResetSteps : Nat → Nat

/-! ### The functions of an extension other than TSL and TCX (R8), by its number. -/

/-- `initial` -/
opaque Config.otherInitial : Nat → CxState

/-- Which lists of words are its `State`: the state a list of words stands for. -/
opaque Config.otherHolds : Nat → CxState → CxState

/-- `cf` of a stateful extension -/
opaque Config.otherCf : Nat → CfId → Word → Word → Insn → CxState → Word → CxResult

/-- `csr` of a stateful extension -/
opaque Config.otherCsr : Nat → CsrAddr → CsrFn → Word → CxState → Word → CxResult

/-- `modifies` of a stateful extension, before R209's lower bound is added -/
opaque Config.otherModifies : Nat → FuncId → Word → Word → CxState → Word → Bool

/-- `size` -/
opaque Config.otherSize : Nat → CxState → BitVec 16

/-- `size_write` -/
opaque Config.otherSizeWrite : Nat → CxState → BitVec 16 → CxState

/-- `save_word` -/
opaque Config.otherSaveWord : Nat → CxState → Nat → Word

/-- `load_word` -/
opaque Config.otherLoadWord : Nat → CxState → Nat → Word → CxState

/-- `cf` of a stateless extension: data, and whether the status is `OP`. By its type it reads only the
operands and the raw instruction, and never answers `CU` (R8, R9, R212). -/
opaque Config.otherPureCf : Nat → CfId → Word → Word → Insn → Word × Bool

/-- The constant a read-only custom CSR of a stateless extension returns (R212). -/
opaque Config.otherConstCsr : Nat → CsrAddr → Word

/-- Whether a stateless extension answers `OP` to an access of its CSR (U12). -/
opaque Config.otherConstCsrOp : Nat → CsrAddr → CsrFn → Word → Bool

/-! ### Other parameters that are functions (R4). -/

/-- `StatusWordPack` of a layout other than the test layout: status, size, error. -/
opaque Config.otherStatusPack : Nat → BitVec 2 → BitVec 16 → Word → Word

/-- `StatusWordUnpack` of a layout other than the test layout. -/
opaque Config.otherStatusUnpack : Nat → Word → BitVec 2 × BitVec 16 × Word

/-- `MemAllowed` of a policy that is no list of ranges. -/
opaque Config.otherMemAllowed : Nat → Priv → Word → Nat → AccessKind → Bool

/-- Whether a refusal of that policy is a page fault. -/
opaque Config.otherMemPaged : Nat → Priv → Word → Nat → AccessKind → Bool

/-! ### The reference configuration (spec/92_eei_decisions.md, spec/95_test_vectors.md part 2). -/

/-- TSL, the stateless test extension. DESIGN CHOICE (notes/assumptions/24.md): the spec gives it no identifiers;
they are numbered 1, so that no two extensions of the configuration share one (R9 (d)). -/
def ExtConfig.tsl : ExtConfig where
  kind := .tsl
  cxGuid := 1
  cxuGuid := 1
  nContexts := 0
  statelessStates := BitVec.allOnes 256
  validCfs := [0, 1, 2]
  validCsrs := []
  errorW := 0
  indexW := 0
  identity := false

/-- TCX, the stateful test extension. DESIGN CHOICE (notes/assumptions/24.md): the spec gives it no identifiers;
they are numbered 2. -/
def ExtConfig.tcx : ExtConfig where
  kind := .tcx
  cxGuid := 2
  cxuGuid := 2
  nContexts := 2
  statelessStates := 0
  validCfs := [0, 1, 5]
  validCsrs := []
  errorW := 8
  indexW := 16
  identity := false

/-- The page of the selector table in the vectors of spec/95_test_vectors.md, refused to user level. -/
def MemPolicy.reference : MemPolicy :=
  .ranges [
    { level := .user, kind := .load, lo := 0x2000, hi := 0x3000, paged := false },
    { level := .user, kind := .store, lo := 0x2000, hi := 0x3000, paged := false }]

/-- The reference configuration. DESIGN CHOICE (notes/assumptions/27.md): access control needs a protected page
(R363); it is the one at 0x2000. -/
def Config.reference : Config where
  xlen := .rv32
  modes := .mu
  accessControl := true
  cxidxRule := .nextHigher
  cxus := [(1, ExtConfig.tsl), (3, ExtConfig.tcx)]
  cfReadStatus := 1023
  cfWriteStatus := 1022
  cfReadState := 1021
  cfWriteState := 1020
  statusLayout := .test
  guidCsrs := []
  mtvalRule := .insn
  memPolicy := MemPolicy.reference
  basePageBits := 20
  builtin := none

/-- The reference configuration with XLEN = 64. -/
def Config.reference64 : Config :=
  { Config.reference with xlen := .rv64, basePageBits := 52 }

end Sys2Proof
end

