-- ==== Sys2Proof/Syntax.lean ====
section
/-! DEFINITION. The instructions: one constructor per row of spec/opcode_table.json, with the fields of
the row's encoding (spec/30_encoding.md R111 to R114, spec/45_host_base_subset.md). -/

namespace Sys2Proof

/-- An instruction. Immediates are kept as the bits of the encoding; `Machine/Operands.lean` extends them. -/
inductive Instr where
  /-- R143 -/
  | cxReg (cfId : CfId) (rd rs1 rs2 : Reg)
  /-- R144 -/
  | cxImm (cfId : BitVec 3) (rd rs1 : Reg) (imm : BitVec 12)
  /-- R145: the flex form as the assembler writes it, `insn[11:7]` = 0 (R121) -/
  | cxFlex (cfId : CfId) (rs1 rs2 : Reg)
  /-- R146: the flex form by its 25 upper bits, for the words with `insn[11:7]` ≠ 0 -/
  | cxFlex25 (custom : BitVec 25)
  /-- R147: `raw` = `insn[31:7]` -/
  | custom3 (raw : BitVec 25)
  /-- R283; the assembly form has rs1 = rs2 = x0 -/
  | cxReadStatus (rd rs1 rs2 : Reg)
  /-- R284; the assembly form has rd = rs2 = x0 -/
  | cxWriteStatus (rd rs1 rs2 : Reg)
  /-- R285; the assembly form has rs2 = x0 -/
  | cxReadState (rd rs1 rs2 : Reg)
  /-- R286; the assembly form has rd = x0 -/
  | cxWriteState (rd rs1 rs2 : Reg)
  /-- R165 -/
  | csrrw (rd : Reg) (csr : CsrAddr) (rs1 : Reg)
  /-- R166 -/
  | csrrs (rd : Reg) (csr : CsrAddr) (rs1 : Reg)
  /-- R167 -/
  | csrrc (rd : Reg) (csr : CsrAddr) (rs1 : Reg)
  /-- R168 -/
  | csrrwi (rd : Reg) (csr : CsrAddr) (uimm : BitVec 5)
  /-- R169 -/
  | csrrsi (rd : Reg) (csr : CsrAddr) (uimm : BitVec 5)
  /-- R170 -/
  | csrrci (rd : Reg) (csr : CsrAddr) (uimm : BitVec 5)
  /-- R305 -/
  | lui (rd : Reg) (imm20 : BitVec 20)
  /-- R306 -/
  | addi (rd rs1 : Reg) (imm : BitVec 12)
  /-- R307 -/
  | add (rd rs1 rs2 : Reg)
  /-- R308 -/
  | andi (rd rs1 : Reg) (imm : BitVec 12)
  /-- R309: `shamt` = `insn[25:20]` -/
  | slli (rd rs1 : Reg) (shamt : BitVec 6)
  /-- R310 -/
  | srli (rd rs1 : Reg) (shamt : BitVec 6)
  /-- R311 -/
  | lw (rd rs1 : Reg) (imm : BitVec 12)
  /-- R312 -/
  | ld (rd rs1 : Reg) (imm : BitVec 12)
  /-- R313 -/
  | sw (rs1 rs2 : Reg) (imm : BitVec 12)
  /-- R314 -/
  | sd (rs1 rs2 : Reg) (imm : BitVec 12)
  /-- R315: `off` = bits 12:1 of the offset -/
  | beq (rs1 rs2 : Reg) (off : BitVec 12)
  /-- R316 -/
  | bne (rs1 rs2 : Reg) (off : BitVec 12)
  /-- R317: `off` = bits 20:1 of the offset -/
  | jal (rd : Reg) (off : BitVec 20)
  /-- R319 -/
  | ecall
  /-- R320 -/
  | mret
  deriving DecidableEq, Repr

end Sys2Proof
end

