-- ==== Sys2Proof/WellFormed.lean ====
section
/-! DEFINITION. Which instructions a configured machine has, each in the one constructor its words decode
to. The field types already bound every operand (spec/30_encoding.md R111). -/

namespace Sys2Proof

/-- `f` is one of the four standard CF_IDs of the configuration (R206, R281). -/
def Config.isStandardCf (cfg : Config) (f : CfId) : Bool :=
  f == cfg.cfReadStatus || f == cfg.cfWriteStatus || f == cfg.cfReadState || f == cfg.cfWriteState

/-- The four standard CF_IDs are distinct (R281). -/
def Config.standardCfsDistinct (cfg : Config) : Bool :=
  [cfg.cfReadStatus, cfg.cfWriteStatus, cfg.cfReadState, cfg.cfWriteState].Nodup

/-- A shift amount is below XLEN (R309: with XLEN = 32 `insn[25]` must be 0). -/
def Config.shamtLegal (cfg : Config) (shamt : BitVec 6) : Bool :=
  match cfg.xlen with
  | .rv32 => !shamt.getLsbD 5
  | .rv64 => true

/-- The instruction exists on the configured machine and stands in its own constructor:
a `cx_reg` names none of the standard CF_IDs (those have their own rows), a `cx_flex25` is no word of the
`cx_flex` assembly form, a shift amount is below XLEN, `ld` and `sd` need XLEN = 64 (R312, R314). -/
def Instr.wellFormed (cfg : Config) : Instr → Bool
  | .cxReg cfId _ _ _ => !cfg.isStandardCf cfId
  | .cxImm _ _ _ _ => true
  | .cxFlex _ _ _ => true
  | .cxFlex25 custom => custom.extractLsb' 0 5 != 0#5
  | .custom3 _ => true
  | .cxReadStatus _ _ _ => cfg.standardCfsDistinct
  | .cxWriteStatus _ _ _ => cfg.standardCfsDistinct
  | .cxReadState _ _ _ => cfg.standardCfsDistinct
  | .cxWriteState _ _ _ => cfg.standardCfsDistinct
  | .csrrw _ _ _ => true
  | .csrrs _ _ _ => true
  | .csrrc _ _ _ => true
  | .csrrwi _ _ _ => true
  | .csrrsi _ _ _ => true
  | .csrrci _ _ _ => true
  | .lui _ _ => true
  | .addi _ _ _ => true
  | .add _ _ _ => true
  | .andi _ _ _ => true
  | .slli _ _ shamt => cfg.shamtLegal shamt
  | .srli _ _ shamt => cfg.shamtLegal shamt
  | .lw _ _ _ => true
  | .ld _ _ _ => cfg.xlen == .rv64
  | .sw _ _ _ => true
  | .sd _ _ _ => cfg.xlen == .rv64
  | .beq _ _ _ => true
  | .bne _ _ _ => true
  | .jal _ _ => true
  | .ecall => true
  | .mret => true

end Sys2Proof
end

