-- ==== Sys2Proof/Decode.lean ====
section
/-! DEFINITION. The decoder, total on any bytes and rejecting by name, and the encoder, both written from
the encodings of spec/30_encoding.md R111, R115, R116 and spec/45_host_base_subset.md. -/

namespace Sys2Proof

/-- Why a word is no instruction of this spec. Every reason but `truncated` raises illegal-instruction when
the word is fetched (R301, R322); a fetch always delivers four bytes, so `truncated` never reaches the hart. -/
inductive DecodeError where
  /-- fewer than four bytes were given -/
  | truncated
  /-- the major opcode belongs to no instruction of this spec -/
  | unknownOpcode
  /-- the major opcode is known and its `funct3` is not -/
  | unknownFunct3
  /-- `funct7` or `funct6` is not zero where it must be -/
  | unknownFunct7
  /-- a SYSTEM word with `funct3` = 0 that is neither `ecall` nor `mret` -/
  | unknownSystem
  deriving DecidableEq, Repr

namespace Field

/-- `insn[6:0]` -/
def opcode (w : Insn) : BitVec 7 := w.extractLsb' 0 7
/-- `insn[11:7]` -/
def rd (w : Insn) : Reg := w.extractLsb' 7 5
/-- `insn[14:12]` -/
def funct3 (w : Insn) : BitVec 3 := w.extractLsb' 12 3
/-- `insn[19:15]` -/
def rs1 (w : Insn) : Reg := w.extractLsb' 15 5
/-- `insn[24:20]` -/
def rs2 (w : Insn) : Reg := w.extractLsb' 20 5
/-- `insn[31:25]` -/
def funct7 (w : Insn) : BitVec 7 := w.extractLsb' 25 7
/-- `insn[31:26]` -/
def funct6 (w : Insn) : BitVec 6 := w.extractLsb' 26 6
/-- `insn[25:20]` -/
def shamt (w : Insn) : BitVec 6 := w.extractLsb' 20 6
/-- `insn[31:20]`: the I-type immediate and the CSR address (R113) -/
def immI (w : Insn) : BitVec 12 := w.extractLsb' 20 12
/-- `{insn[31:25], insn[11:7]}`: the S-type immediate (R313) -/
def immS (w : Insn) : BitVec 12 := w.extractLsb' 25 7 ++ w.extractLsb' 7 5
/-- `insn[31:12]` (R305) -/
def immU (w : Insn) : BitVec 20 := w.extractLsb' 12 20
/-- `{insn[31], insn[7], insn[30:25], insn[11:8]}`: bits 12:1 of a branch offset (R315) -/
def offB (w : Insn) : BitVec 12 :=
  w.extractLsb' 31 1 ++ w.extractLsb' 7 1 ++ w.extractLsb' 25 6 ++ w.extractLsb' 8 4
/-- `{insn[31], insn[19:12], insn[20], insn[30:21]}`: bits 20:1 of a jump offset (R317) -/
def offJ (w : Insn) : BitVec 20 :=
  w.extractLsb' 31 1 ++ w.extractLsb' 12 8 ++ w.extractLsb' 20 1 ++ w.extractLsb' 21 10
/-- `{insn[31:25], insn[14:12]}` (R112) -/
def cfId (w : Insn) : CfId := w.extractLsb' 25 7 ++ w.extractLsb' 12 3
/-- `insn[31:7]` -/
def upper25 (w : Insn) : BitVec 25 := w.extractLsb' 7 25

end Field

/-- custom-0: the row of the CF_ID. The hart executes them all alike (R123); the four standard CF_IDs have
rows of their own. -/
def decodeCustom0 (cfg : Config) (w : Insn) : Instr :=
  let f := Field.cfId w
  if f = cfg.cfReadStatus then .cxReadStatus (Field.rd w) (Field.rs1 w) (Field.rs2 w)
  else if f = cfg.cfWriteStatus then .cxWriteStatus (Field.rd w) (Field.rs1 w) (Field.rs2 w)
  else if f = cfg.cfReadState then .cxReadState (Field.rd w) (Field.rs1 w) (Field.rs2 w)
  else if f = cfg.cfWriteState then .cxWriteState (Field.rd w) (Field.rs1 w) (Field.rs2 w)
  else .cxReg f (Field.rd w) (Field.rs1 w) (Field.rs2 w)

/-- custom-2: the `cx_flex` assembly form where `insn[11:7]` = 0, else the `cx_flex25` view of the same
word (R111, R121). -/
def decodeCustom2 (w : Insn) : Instr :=
  if Field.rd w = 0 then .cxFlex (Field.cfId w) (Field.rs1 w) (Field.rs2 w)
  else .cxFlex25 (Field.upper25 w)

/-- SYSTEM: the six CSR instructions by `funct3` (R115), `ecall` and `mret` (R319, R320). -/
def decodeSystem (w : Insn) : Except DecodeError Instr :=
  if Field.funct3 w = 1 then .ok (.csrrw (Field.rd w) (Field.immI w) (Field.rs1 w))
  else if Field.funct3 w = 2 then .ok (.csrrs (Field.rd w) (Field.immI w) (Field.rs1 w))
  else if Field.funct3 w = 3 then .ok (.csrrc (Field.rd w) (Field.immI w) (Field.rs1 w))
  else if Field.funct3 w = 5 then .ok (.csrrwi (Field.rd w) (Field.immI w) (Field.rs1 w))
  else if Field.funct3 w = 6 then .ok (.csrrsi (Field.rd w) (Field.immI w) (Field.rs1 w))
  else if Field.funct3 w = 7 then .ok (.csrrci (Field.rd w) (Field.immI w) (Field.rs1 w))
  else if w = 0x00000073#32 then .ok .ecall
  else if w = 0x30200073#32 then .ok .mret
  else .error .unknownSystem

/-- OP-IMM: `addi`, `slli`, `srli`, `andi` (R306, R308 to R310). -/
def decodeOpImm (w : Insn) : Except DecodeError Instr :=
  if Field.funct3 w = 0 then .ok (.addi (Field.rd w) (Field.rs1 w) (Field.immI w))
  else if Field.funct3 w = 7 then .ok (.andi (Field.rd w) (Field.rs1 w) (Field.immI w))
  else if Field.funct3 w = 1 then
    if Field.funct6 w = 0 then .ok (.slli (Field.rd w) (Field.rs1 w) (Field.shamt w))
    else .error .unknownFunct7
  else if Field.funct3 w = 5 then
    if Field.funct6 w = 0 then .ok (.srli (Field.rd w) (Field.rs1 w) (Field.shamt w))
    else .error .unknownFunct7
  else .error .unknownFunct3

/-- OP: `add` (R307). -/
def decodeOp (w : Insn) : Except DecodeError Instr :=
  if Field.funct3 w = 0 then
    if Field.funct7 w = 0 then .ok (.add (Field.rd w) (Field.rs1 w) (Field.rs2 w))
    else .error .unknownFunct7
  else .error .unknownFunct3

/-- LOAD: `lw`, `ld` (R311, R312). -/
def decodeLoad (w : Insn) : Except DecodeError Instr :=
  if Field.funct3 w = 2 then .ok (.lw (Field.rd w) (Field.rs1 w) (Field.immI w))
  else if Field.funct3 w = 3 then .ok (.ld (Field.rd w) (Field.rs1 w) (Field.immI w))
  else .error .unknownFunct3

/-- STORE: `sw`, `sd` (R313, R314). -/
def decodeStore (w : Insn) : Except DecodeError Instr :=
  if Field.funct3 w = 2 then .ok (.sw (Field.rs1 w) (Field.rs2 w) (Field.immS w))
  else if Field.funct3 w = 3 then .ok (.sd (Field.rs1 w) (Field.rs2 w) (Field.immS w))
  else .error .unknownFunct3

/-- BRANCH: `beq`, `bne` (R315, R316). -/
def decodeBranch (w : Insn) : Except DecodeError Instr :=
  if Field.funct3 w = 0 then .ok (.beq (Field.rs1 w) (Field.rs2 w) (Field.offB w))
  else if Field.funct3 w = 1 then .ok (.bne (Field.rs1 w) (Field.rs2 w) (Field.offB w))
  else .error .unknownFunct3

/-- The instruction of a 32-bit word, by its major opcode (R110, R116, R322). -/
def decodeWord (cfg : Config) (w : Insn) : Except DecodeError Instr :=
  if Field.opcode w = 0b0001011#7 then .ok (decodeCustom0 cfg w)
  else if Field.opcode w = 0b0101011#7 then
    .ok (.cxImm (Field.funct3 w) (Field.rd w) (Field.rs1 w) (Field.immI w))
  else if Field.opcode w = 0b1011011#7 then .ok (decodeCustom2 w)
  else if Field.opcode w = 0b1111011#7 then .ok (.custom3 (Field.upper25 w))
  else if Field.opcode w = 0b1110011#7 then decodeSystem w
  else if Field.opcode w = 0b0110111#7 then .ok (.lui (Field.rd w) (Field.immU w))
  else if Field.opcode w = 0b0010011#7 then decodeOpImm w
  else if Field.opcode w = 0b0110011#7 then decodeOp w
  else if Field.opcode w = 0b0000011#7 then decodeLoad w
  else if Field.opcode w = 0b0100011#7 then decodeStore w
  else if Field.opcode w = 0b1100011#7 then decodeBranch w
  else if Field.opcode w = 0b1101111#7 then .ok (.jal (Field.rd w) (Field.offJ w))
  else .error .unknownOpcode

/-- The word whose byte at the lowest address holds bits 7:0 (R86). -/
def wordOfBytes (b0 b1 b2 b3 : BitVec 8) : Insn := b3 ++ b2 ++ b1 ++ b0

/-- The decoder: the instruction that the first four bytes are (R110, R117). -/
def decode (cfg : Config) : List (BitVec 8) → Except DecodeError Instr
  | b0 :: b1 :: b2 :: b3 :: _ => decodeWord cfg (wordOfBytes b0 b1 b2 b3)
  | _ => .error .truncated

/-- The bytes of a word as the hardware stores them, lowest address first (R86). -/
def bytesOfWord (w : Insn) : List (BitVec 8) :=
  [w.extractLsb' 0 8, w.extractLsb' 8 8, w.extractLsb' 16 8, w.extractLsb' 24 8]

/-- What the decoder of the reference configuration reads from a table word: `w` below bit `nbits`, zero
above. -/
def decodeTableWord (nbits w : Nat) : Option Instr :=
  match decode Config.reference (bytesOfWord (BitVec.ofNat 32 (w % 2 ^ nbits))) with
  | .ok i => some i
  | .error _ => none

namespace Layout

/-- R-type (R111, R307) -/
def r (funct7 : BitVec 7) (rs2 rs1 : Reg) (funct3 : BitVec 3) (rd : Reg) (opcode : BitVec 7) : Insn :=
  funct7 ++ rs2 ++ rs1 ++ funct3 ++ rd ++ opcode
/-- I-type and CSR access (R111, R306) -/
def i (imm : BitVec 12) (rs1 : Reg) (funct3 : BitVec 3) (rd : Reg) (opcode : BitVec 7) : Insn :=
  imm ++ rs1 ++ funct3 ++ rd ++ opcode
/-- I-type shift (R309) -/
def sh (shamt : BitVec 6) (rs1 : Reg) (funct3 : BitVec 3) (rd : Reg) (opcode : BitVec 7) : Insn :=
  0#6 ++ shamt ++ rs1 ++ funct3 ++ rd ++ opcode
/-- S-type (R313) -/
def s (imm : BitVec 12) (rs2 rs1 : Reg) (funct3 : BitVec 3) (opcode : BitVec 7) : Insn :=
  imm.extractLsb' 5 7 ++ rs2 ++ rs1 ++ funct3 ++ imm.extractLsb' 0 5 ++ opcode
/-- B-type from bits 12:1 of the offset (R315) -/
def b (off : BitVec 12) (rs2 rs1 : Reg) (funct3 : BitVec 3) (opcode : BitVec 7) : Insn :=
  off.extractLsb' 11 1 ++ off.extractLsb' 4 6 ++ rs2 ++ rs1 ++ funct3 ++ off.extractLsb' 0 4
    ++ off.extractLsb' 10 1 ++ opcode
/-- U-type (R305) -/
def u (imm20 : BitVec 20) (rd : Reg) (opcode : BitVec 7) : Insn := imm20 ++ rd ++ opcode
/-- J-type from bits 20:1 of the offset (R317) -/
def j (off : BitVec 20) (rd : Reg) (opcode : BitVec 7) : Insn :=
  off.extractLsb' 19 1 ++ off.extractLsb' 0 10 ++ off.extractLsb' 10 1 ++ off.extractLsb' 11 8 ++ rd
    ++ opcode
/-- R-type and flex-type with a CF_ID (R111, R112) -/
def cf (cfId : CfId) (rs2 rs1 mid : Reg) (opcode : BitVec 7) : Insn :=
  r (cfId.extractLsb' 3 7) rs2 rs1 (cfId.extractLsb' 0 3) mid opcode

end Layout

/-- The word of an instruction (R111, R115, R123, R281, R305 to R320). -/
def encode (cfg : Config) : Instr → Insn
  | .cxReg cfId rd rs1 rs2 => Layout.cf cfId rs2 rs1 rd 0b0001011#7
  | .cxImm cfId rd rs1 imm => Layout.i imm rs1 cfId rd 0b0101011#7
  | .cxFlex cfId rs1 rs2 => Layout.cf cfId rs2 rs1 0 0b1011011#7
  | .cxFlex25 custom => custom ++ 0b1011011#7
  | .custom3 raw => raw ++ 0b1111011#7
  | .cxReadStatus rd rs1 rs2 => Layout.cf cfg.cfReadStatus rs2 rs1 rd 0b0001011#7
  | .cxWriteStatus rd rs1 rs2 => Layout.cf cfg.cfWriteStatus rs2 rs1 rd 0b0001011#7
  | .cxReadState rd rs1 rs2 => Layout.cf cfg.cfReadState rs2 rs1 rd 0b0001011#7
  | .cxWriteState rd rs1 rs2 => Layout.cf cfg.cfWriteState rs2 rs1 rd 0b0001011#7
  | .csrrw rd csr rs1 => Layout.i csr rs1 1 rd 0b1110011#7
  | .csrrs rd csr rs1 => Layout.i csr rs1 2 rd 0b1110011#7
  | .csrrc rd csr rs1 => Layout.i csr rs1 3 rd 0b1110011#7
  | .csrrwi rd csr uimm => Layout.i csr uimm 5 rd 0b1110011#7
  | .csrrsi rd csr uimm => Layout.i csr uimm 6 rd 0b1110011#7
  | .csrrci rd csr uimm => Layout.i csr uimm 7 rd 0b1110011#7
  | .lui rd imm20 => Layout.u imm20 rd 0b0110111#7
  | .addi rd rs1 imm => Layout.i imm rs1 0 rd 0b0010011#7
  | .add rd rs1 rs2 => Layout.r 0 rs2 rs1 0 rd 0b0110011#7
  | .andi rd rs1 imm => Layout.i imm rs1 7 rd 0b0010011#7
  | .slli rd rs1 shamt => Layout.sh shamt rs1 1 rd 0b0010011#7
  | .srli rd rs1 shamt => Layout.sh shamt rs1 5 rd 0b0010011#7
  | .lw rd rs1 imm => Layout.i imm rs1 2 rd 0b0000011#7
  | .ld rd rs1 imm => Layout.i imm rs1 3 rd 0b0000011#7
  | .sw rs1 rs2 imm => Layout.s imm rs2 rs1 2 0b0100011#7
  | .sd rs1 rs2 imm => Layout.s imm rs2 rs1 3 0b0100011#7
  | .beq rs1 rs2 off => Layout.b off rs2 rs1 0 0b1100011#7
  | .bne rs1 rs2 off => Layout.b off rs2 rs1 1 0b1100011#7
  | .jal rd off => Layout.j off rd 0b1101111#7
  | .ecall => 0x00000073#32
  | .mret => 0x30200073#32

end Sys2Proof
end

