-- ==== Sys2Proof/Machine/Bits.lean ====
section
/-! DEFINITION. XLEN-bit values in their 64-bit carrier, masks, extensions, level codes. -/

namespace Sys2Proof.Machine

/-- The number of bits of an integer register (R4). -/
def xlenBits : Xlen → Nat
  | .rv32 => 32
  | .rv64 => 64

/-- The XLEN-bit value of a carrier: modulo `2^XLEN` (R11). -/
def norm (x : Xlen) (v : Word) : Word :=
  match x with
  | .rv32 => (v.setWidth 32).setWidth 64
  | .rv64 => v

/-- `sext_XLEN` (R11). -/
def sextX (x : Xlen) {n : Nat} (v : BitVec n) : Word := norm x (v.signExtend 64)

/-- `zext_XLEN` of a value of at most 32 bits (R11). -/
def zextX {n : Nat} (v : BitVec n) : Word := v.setWidth 64

/-- The low `n` bits set. -/
def lowMask (n : Nat) : Word := BitVec.ofNat 64 (2 ^ n - 1)

/-- The low `n` bits of a word. -/
def keepLow (n : Nat) (v : Word) : Word := v &&& lowMask n

/-- The low `n` bits of a 16-bit field. -/
def keepLow16 (n : Nat) (v : BitVec 16) : BitVec 16 := v &&& BitVec.ofNat 16 (2 ^ n - 1)

/-- An address with bits 1:0 cleared: `v & ~3` (R302, R344). -/
def clear2 (v : Word) : Word := v &&& ~~~3#64

/-- The numeric encoding of a level: U = 0, S = 1, M = 3 (R25). -/
def privCode : Priv → BitVec 2
  | .user => 0
  | .supervisor => 1
  | .machine => 3

/-- The level of an encoding; 2 is none. -/
def privOfCode? (c : BitVec 2) : Option Priv :=
  if c = 0 then some .user
  else if c = 1 then some .supervisor
  else if c = 3 then some .machine
  else none

/-- `p ∈ MODES` (R4). -/
def implemented (modes : Modes) (p : Priv) : Bool :=
  match modes, p with
  | _, .machine => true
  | .m, _ => false
  | .mu, .user => true
  | .mu, .supervisor => false
  | .msu, _ => true

/-- The least privileged level in `MODES` (R320). -/
def leastLevel : Modes → Priv
  | .m => .machine
  | .mu => .user
  | .msu => .user

/-- A level of `MODES` picked by a number; every level is picked by some number. -/
def pickLevel (modes : Modes) (n : Nat) : Priv :=
  match modes with
  | .m => .machine
  | .mu => if n % 2 = 0 then .user else .machine
  | .msu => if n % 3 = 0 then .user else if n % 3 = 1 then .supervisor else .machine

/-! ### `mstatus` (R302): `MIE` = bit 3, `MPIE` = bit 7, `MPP` = bits 12:11, all other bits zero. -/

/-- The word with these three fields. -/
def mstatusOf (mie mpie : Bool) (mpp : Priv) : Word :=
  (0#51 ++ privCode mpp ++ 0#3 ++ BitVec.ofBool mpie ++ 0#3 ++ BitVec.ofBool mie ++ 0#3 : BitVec 64)

/-- `mstatus.MIE` -/
def mstatusMie (v : Word) : Bool := v.getLsbD 3

/-- `mstatus.MPIE` -/
def mstatusMpie (v : Word) : Bool := v.getLsbD 7

/-- The level in `mstatus.MPP`, if its two bits encode one. -/
def mstatusMpp? (v : Word) : Option Priv := privOfCode? (v.extractLsb' 11 2)

/-- `mstatus.MPP` of a register that holds a legal value (R302). -/
def mstatusMpp (v : Word) : Priv := (mstatusMpp? v).getD .machine

end Sys2Proof.Machine
end

