-- ==== Sys2Proof/Machine/Extensions.lean ====
section
/-! DEFINITION. The functions of a configured extension (spec/00_scope.md R8): TSL and TCX as
spec/95_test_vectors.md part 2 defines them, any other extension by the constants of Config. -/

namespace Sys2Proof

open Sys2Proof.Machine

/-- An extension is stateful exactly when it has state contexts (R7, R8). -/
def ExtConfig.stateful (cx : ExtConfig) : Bool := cx.nContexts != 0

/-- `Cxu(c)`: the configured extension of a CXU_ID (R4, R12). -/
def cxuOf (cfg : Config) (c : BitVec 8) : Option ExtConfig := cfg.cxus.lookup c

/-- A value kept in the `ERROR_W` bits of the extension's `cxs_error` (R52). -/
def ExtConfig.errBits (cx : ExtConfig) (x : Xlen) (v : Word) : Word := norm x (keepLow cx.errorW v)

/-! ### TCX: the state is `acc`, `cnt`. -/

def tcxAcc (st : CxState) : BitVec 32 := (st.getD 0 0).setWidth 32
def tcxCnt (st : CxState) : BitVec 32 := (st.getD 1 0).setWidth 32
def tcxState (acc cnt : BitVec 32) : CxState := [acc.setWidth 64, cnt.setWidth 64]

/-- The custom functions 0, 1 and 5 of TCX. -/
def tcxCf (f : CfId) (d0 d1 : Word) (st : CxState) (err : Word) : CxResult :=
  if f = 0 then
    let acc := tcxAcc st + d0.setWidth 32 + d1.setWidth 32
    { data := acc.setWidth 64, status := .ok, st := tcxState acc (tcxCnt st + 1), err := err }
  else if f = 5 then { data := 0, status := .cu, st := st, err := 0x2A }
  else { data := (tcxAcc st).setWidth 64, status := .ok, st := st, err := err }

/-- `load_word` of TCX. -/
def tcxLoad (st : CxState) (i : Nat) (w : Word) : CxState :=
  match i with
  | 0 => tcxState (w.setWidth 32) (tcxCnt st)
  | 1 => tcxState (tcxAcc st) (w.setWidth 32)
  | _ => st

/-- `save_word` of TCX. -/
def tcxSave (st : CxState) (i : Nat) : Word :=
  match i with
  | 0 => (tcxAcc st).setWidth 64
  | _ => (tcxCnt st).setWidth 64

/-! ### TSL: three functions of the operands, on 32 bits. -/

/-- The custom functions 0, 1 and 2 of TSL: data, and whether the status is `OP`. -/
def tslCf (f : CfId) (d0 d1 : Word) : Word × Bool :=
  let a : BitVec 32 := d0.setWidth 32
  let b : BitVec 32 := d1.setWidth 32
  if f = 0 then ((a + b).setWidth 64, false)
  else if f = 1 then ((a &&& b).setWidth 64, false)
  else if b = 0 then (0, true)
  else ((a.udiv b).setWidth 64, false)

/-! ### The record of R8, by kind. -/

/-- `initial`: the power-up state. -/
def ExtConfig.initial (cx : ExtConfig) : CxState :=
  match cx.kind with
  | .tsl => []
  | .tcx => tcxState 0 0
  | .other id => Config.otherInitial id

/-- The type `State` of R8, as the lists of words that `holds` leaves alone: the state an extension holds out of any
list of words. A TCX context holds two 32-bit words. -/
def ExtConfig.holds (cx : ExtConfig) (st : CxState) : CxState :=
  match cx.kind with
  | .tsl => []
  | .tcx => tcxState (tcxAcc st) (tcxCnt st)
  | .other id => Config.otherHolds id st

/-- `cf` of a stateful extension. -/
def ExtConfig.cf (cx : ExtConfig) (f : CfId) (d0 d1 : Word) (insn : Insn) (st : CxState) (err : Word) :
    CxResult :=
  match cx.kind with
  | .tsl =>
    let r := tslCf f d0 d1
    { data := r.1, status := if r.2 then .op else .ok, st := st, err := err }
  | .tcx => tcxCf f d0 d1 st err
  | .other id => Config.otherCf id f d0 d1 insn st err

/-- `csr` of a stateful extension. TSL and TCX have no CX CSR of their own. -/
def ExtConfig.csr (cx : ExtConfig) (a : CsrAddr) (fn : CsrFn) (d0 : Word) (st : CxState) (err : Word) :
    CxResult :=
  match cx.kind with
  | .tsl => { data := 0, status := .ok, st := st, err := err }
  | .tcx => { data := 0, status := .ok, st := st, err := err }
  | .other id => Config.otherCsr id a fn d0 st err

/-- `cf` of a stateless extension: a function of the operands and the instruction (R9, R212). -/
def ExtConfig.pureCf (cx : ExtConfig) (f : CfId) (d0 d1 : Word) (insn : Insn) : Word × Bool :=
  match cx.kind with
  | .tsl => tslCf f d0 d1
  | .tcx =>
    let r := tcxCf f d0 d1 [] 0
    (r.data, false)
  | .other id => Config.otherPureCf id f d0 d1 insn

/-- `csr` of a stateless extension: a constant (R212), and whether the access is answered `OP` (U12). -/
def ExtConfig.constCsr (cx : ExtConfig) (a : CsrAddr) (fn : CsrFn) (d0 : Word) : Word × Bool :=
  match cx.kind with
  | .tsl => (0, false)
  | .tcx => (0, false)
  | .other id => (Config.otherConstCsr id a, Config.otherConstCsrOp id a fn d0)

/-- What the extension itself says of `modifies`. -/
def ExtConfig.saysModifies (cx : ExtConfig) (func : FuncId) (d0 d1 : Word) (st : CxState) (err : Word) :
    Bool :=
  match cx.kind with
  | .tsl => false
  | .tcx =>
    match func with
    | .cf f => f == 0 || f == 5
    | .csr _ => false
  | .other id => Config.otherModifies id func d0 d1 st err

/-- `size`: the current size in XLEN-bit words (R54). -/
def ExtConfig.size (cx : ExtConfig) (st : CxState) : BitVec 16 :=
  match cx.kind with
  | .tsl => 0
  | .tcx => 2
  | .other id => Config.otherSize id st

/-- `size_write` (R245). -/
def ExtConfig.sizeWrite (cx : ExtConfig) (st : CxState) (v : BitVec 16) : CxState :=
  match cx.kind with
  | .tsl => st
  | .tcx => st
  | .other id => Config.otherSizeWrite id st v

/-- `save_word` (R254). -/
def ExtConfig.saveWord (cx : ExtConfig) (st : CxState) (i : Nat) : Word :=
  match cx.kind with
  | .tsl => 0
  | .tcx => tcxSave st i
  | .other id => Config.otherSaveWord id st i

/-- `load_word` (R255). -/
def ExtConfig.loadWord (cx : ExtConfig) (st : CxState) (i : Nat) (w : Word) : CxState :=
  match cx.kind with
  | .tsl => st
  | .tcx => tcxLoad st i w
  | .other id => Config.otherLoadWord id st i w

/-! ### The state status word (R282) -/

/-- `StatusWordPack`. -/
def statusPack (cfg : Config) (cs : BitVec 2) (size : BitVec 16) (error : Word) : Word :=
  match cfg.statusLayout with
  | .test => zextX (0#3 ++ cs ++ 0#3 ++ error.setWidth 8 ++ size : BitVec 32)
  | .other id => norm cfg.xlen (Config.otherStatusPack id cs size error)

/-- `StatusWordUnpack`: status, size, error. -/
def statusUnpack (cfg : Config) (w : Word) : BitVec 2 × BitVec 16 × Word :=
  match cfg.statusLayout with
  | .test => (w.extractLsb' 27 2, w.extractLsb' 0 16, zextX (w.extractLsb' 16 8))
  | .other id => Config.otherStatusUnpack id w

end Sys2Proof
end

