-- ==== Sys2Proof/Machine/Cells.lean ====
section
/-! DEFINITION. A finite map from Nat as a list of pairs with strictly rising keys: memory and the state
contexts are held in it. -/

namespace Sys2Proof.Machine

/-- The value at a key, if one is listed. -/
def Cells.get {α : Type} : List (Nat × α) → Nat → Option α
  | [], _ => none
  | (k, v) :: l, a => if k = a then some v else Cells.get l a

/-- Put a value at a key, in key order. -/
def Cells.set {α : Type} : List (Nat × α) → Nat → α → List (Nat × α)
  | [], a, w => [(a, w)]
  | (k, v) :: l, a, w =>
    if k = a then (a, w) :: l
    else if a < k then (a, w) :: (k, v) :: l
    else (k, v) :: Cells.set l a w

/-- Take a key out. -/
def Cells.erase {α : Type} : List (Nat × α) → Nat → List (Nat × α)
  | [], _ => []
  | (k, v) :: l, a => if k = a then Cells.erase l a else (k, v) :: Cells.erase l a

/-- The keys are strictly rising. -/
abbrev Cells.sorted {α : Type} (l : List (Nat × α)) : Prop := (l.map Prod.fst).Pairwise (· < ·)

end Sys2Proof.Machine
end

