-- ==== Sys2Proof/Machine/Memory.lean ====
section
/-! DEFINITION. Memory: the bytes of the XLEN-bit address space that are not `unlistedByte`, in rising address
order (spec/10_state.md R66, spec/20_memory.md R90). -/

namespace Sys2Proof.Machine

/-- What an address reads as that the list does not hold (notes/assumptions/5.md). -/
def unlistedByte : BitVec 8 := 0

/-- The byte at an address. -/
def Memory.read (m : List Host.Cell) (a : Nat) : BitVec 8 := (Cells.get m a).getD unlistedByte

/-- Write one byte, keeping the canonical form. -/
def Memory.write (m : List Host.Cell) (a : Nat) (b : BitVec 8) : List Host.Cell :=
  if b = unlistedByte then Cells.erase m a else Cells.set m a b

/-- The canonical form: addresses strictly rising, no entry equal to what an unlisted address reads as. -/
abbrev Memory.wf (m : List Host.Cell) : Prop := Cells.sorted m ∧ ∀ c ∈ m, c.2 ≠ unlistedByte

/-- Every listed address is below a bound. -/
abbrev Memory.below (m : List Host.Cell) (bound : Nat) : Prop := ∀ c ∈ m, c.1 < bound

/-- The memory that holds the given cells, later ones first; a cell outside the address space is dropped. -/
def Memory.ofCells (bound : Nat) (cells : List Host.Cell) : List Host.Cell :=
  cells.foldl (fun m c => if c.1 < bound then Memory.write m c.1 c.2 else m) []

end Sys2Proof.Machine
end

