-- ==== Sys2Proof/Machine/State.lean ====
section
/-! DEFINITION. The state of the machine (spec/10_state.md R20, R22 to R66), as plain data, its two kinds of
stop, and the state after reset (R63 to R65, R380). One hart is modelled (notes/assumptions/2.md). -/

namespace Sys2Proof.Machine

/-- The state context status `cs` (R50). -/
inductive CtxStatus where
  | off
  | initial
  | clean
  | dirty
  deriving DecidableEq, Repr

/-- The state-context record `Ctx(c, s)` (R47). -/
structure Ctx where
  /-- the extension's own state -/
  st : CxState
  /-- `cs` -/
  cs : CtxStatus
  /-- a reset is in progress -/
  rst : Bool
  /-- the `cxs_error` value -/
  error : Word
  /-- `scxs_index.index` -/
  index : BitVec 16
  /-- `scxs_index.incr` -/
  incr : Bool
  /-- the model's own: hart steps the reset in progress still takes (R249, notes/assumptions/4.md) -/
  stepsLeft : Nat
  deriving DecidableEq, Repr

/-- The state of one hart (R20 (a), R22, R24 to R45, R302). -/
structure Hart where
  /-- integer registers; `x[0]` is read as 0 by `State.xr` whatever the slot holds -/
  x : Vector Word 32
  /-- program counter -/
  pc : Word
  /-- privilege level -/
  priv : Priv
  /-- CSR 0xBC0 -/
  mcxSelector : BitVec 32
  /-- CSR 0x801 -/
  cxStatus : BitVec 32
  /-- CSR 0xBC1 -/
  mcxTable : Word
  /-- CSR 0x800 -/
  cxIndex : BitVec 32
  /-- CSR 0x300 -/
  mstatus : Word
  /-- CSR 0x305 -/
  mtvec : Word
  /-- CSR 0x340 -/
  mscratch : Word
  /-- CSR 0x341 -/
  mepc : Word
  /-- CSR 0x342 -/
  mcause : Word
  /-- CSR 0x343 -/
  mtval : Word
  deriving DecidableEq, Repr

/-- The whole machine: the hart, its configuration (R4; changed by no step), memory, the program text, the state
contexts of every stateful configured extension (R20 (b)) under `ctxKey`, and the model's own draw counter. -/
structure State extends Hart where
  cfg : Config
  mem : List Host.Cell
  /-- the program text, the memory that fetch reads: changed by no step (R15, R98, notes/assumptions/11.md) -/
  text : List Host.Cell
  ctxs : List (Nat × Ctx)
  /-- the model's own: how many free values have been drawn (notes/assumptions/3.md) -/
  draws : Nat
  deriving DecidableEq, Repr

/-- The machine stops with a fault: never. The spec gives every instruction an effect or an exception whose
entry it describes, and every address of the XLEN-bit space exists (R66, R90), so no constructor stands
here. Safe: nothing is cut short. -/
inductive Fault where
  deriving DecidableEq, Repr

/-- The model gives an instruction no meaning. -/
inductive Refusal where
  /-- Raised by `exec` alone, for an instruction that has no meaning yet. No arm raises it. Safe. -/
  | notModelled (mnemonic : String)
  deriving DecidableEq, Repr

/-- BUILTIN (R210) by number: the hart after a built-in custom instruction or custom CSR access, or none
where the CPU has no such instruction. It may read and write any state of the hart. -/
opaque builtinEffect : Nat → Insn → Hart → Option Hart

/-- The key of `Ctx(c, s)` in the list of contexts. -/
def ctxKey (c s : BitVec 8) : Nat := c.toNat * 256 + s.toNat

/-- A context in its initial (power up) state: `cs` = 1, no reset in progress, `error`, `index`, `incr`
zero (R64, R249). -/
def Ctx.powerUp (cx : ExtConfig) : Ctx where
  st := cx.initial
  cs := .initial
  rst := false
  error := 0
  index := 0
  incr := false
  stepsLeft := 0

/-- Every context of the configuration in its initial state (R64). -/
def powerUpCtxs (cfg : Config) : List (Nat × Ctx) :=
  cfg.cxus.foldl
    (fun l e => (List.range e.2.nContexts).foldl
      (fun l s => Cells.set l (ctxKey e.1 (BitVec.ofNat 8 s)) (Ctx.powerUp e.2)) l) []

/-- What the platform decides at reset, and the values the spec leaves unspecified there (R65, R302, R380):
`RESET_PC`, `MEM`, `mtvec`, and the draws for `x[1..31]`, `mstatus.MPP`, `mscratch`, `mepc`, `mtval`. -/
structure ResetParams where
  cfg : Config
  pc : Word
  mem : List Host.Cell
  mtvec : Word
  x : Vector Word 32
  mpp : Priv
  mscratch : Word
  mepc : Word
  mtval : Word
  deriving DecidableEq, Repr

/-- What the platform and the draws are in the reference run: `pc` = 0, no memory contents, every
unspecified value zero (notes/assumptions/1.md, 5.md). -/
def ResetParams.reference : ResetParams where
  cfg := Config.reference
  pc := 0
  mem := []
  mtvec := 0
  x := Vector.replicate 32 0
  mpp := .user
  mscratch := 0
  mepc := 0
  mtval := 0

/-- The machine right after reset (R28, R63 to R65, R302, R380), for any configuration and any value of what
the spec leaves open. Values outside a field's legal ones are made legal. DESIGN CHOICE (notes/assumptions/30.md):
D32 says that the fields of `mstatus` are zero and the other base CSRs unspecified, R302 that `MPP` is unspecified
and `mcause` is 0; here `MPP` is an argument and `mcause` is 0, after R302. -/
def State.resetOf (p : ResetParams) : State where
  x := (p.x.map (norm p.cfg.xlen)).set 0 0
  pc := clear2 (norm p.cfg.xlen p.pc)
  priv := .machine
  mcxSelector := 0
  cxStatus := 0
  mcxTable := 0
  cxIndex := 0
  mstatus := mstatusOf false false (if implemented p.cfg.modes p.mpp then p.mpp else .machine)
  mtvec := clear2 (norm p.cfg.xlen p.mtvec)
  mscratch := norm p.cfg.xlen p.mscratch
  mepc := clear2 (norm p.cfg.xlen p.mepc)
  mcause := 0
  mtval := norm p.cfg.xlen p.mtval
  cfg := p.cfg
  mem := Memory.ofCells (2 ^ xlenBits p.cfg.xlen) p.mem
  text := Memory.ofCells (2 ^ xlenBits p.cfg.xlen) p.mem
  ctxs := powerUpCtxs p.cfg
  draws := 0

/-- The machine right after reset, in the reference configuration. -/
def State.reset : State := State.resetOf ResetParams.reference

end Sys2Proof.Machine
end

