-- ==== Sys2Proof/Machine/Flags.lean ====
section
/-! DEFINITION. The seven sticky flags of `cx_status` (spec/10_state.md R37 to R40), and the fields of a CX
selector (R30 to R33). The base ISA has no condition flags (spec/45_host_base_subset.md R300). -/

namespace Sys2Proof.Machine

/-- The flags of `cx_status`, by bit (R38). -/
inductive CxFlag where
  /-- `IV`, bit 0 -/
  | invalidVersion
  /-- `IC`, bit 1 -/
  | invalidCxu
  /-- `IS`, bit 2 -/
  | invalidState
  /-- `OF`, bit 3 -/
  | contextOff
  /-- `IF`, bit 4 -/
  | invalidFunc
  /-- `OP`, bit 5 -/
  | operation
  /-- `CU`, bit 6 -/
  | custom
  deriving DecidableEq, Repr

/-- The bit number of a flag (R38). -/
def CxFlag.bit : CxFlag → Nat
  | .invalidVersion => 0
  | .invalidCxu => 1
  | .invalidState => 2
  | .contextOff => 3
  | .invalidFunc => 4
  | .operation => 5
  | .custom => 6

/-- `cx_status` with one more flag set, the others unchanged (R202, R205 (f)). -/
def CxFlag.into (f : CxFlag) (v : BitVec 32) : BitVec 32 := v ||| BitVec.twoPow 32 f.bit

/-- What a software write leaves of a value in `cx_status`: bits 6:0 (R38, R172). -/
def statusBits (v : BitVec 32) : BitVec 32 := v &&& 0x7F#32

/-- The flag of a response status (R202, R203). -/
def respFlag : CxResp → Option CxFlag
  | .ok => none
  | .op => some .operation
  | .cu => some .custom

/-- The flag is set, if there is one. -/
def State.setFlag (s : State) (f : Option CxFlag) : State :=
  match f with
  | none => s
  | some f => { s with cxStatus := f.into s.cxStatus }

/-! ### CX selectors -/

/-- The stored bits of `mcx_selector`: 31:29, 28, 23:16, 7:0 (R30). -/
def selectorBits (v : BitVec 32) : BitVec 32 := v &&& 0xF0FF00FF#32

/-- `version`, bits 31:29 (R31). -/
def selVersion (v : BitVec 32) : BitVec 3 := v.extractLsb' 29 3

/-- `cxe`, bit 28 (R32). -/
def selCxe (v : BitVec 32) : Bool := v.getLsbD 28

/-- `state_id`, bits 23:16 (R30). -/
def selStateId (v : BitVec 32) : BitVec 8 := v.extractLsb' 16 8

/-- `cxu_id`, bits 7:0 (R30). -/
def selCxuId (v : BitVec 32) : BitVec 8 := v.extractLsb' 0 8

/-- The selector with the given fields and zero reserved bits (R30). -/
def selectorOf (version : BitVec 3) (cxe : Bool) (stateId cxuId : BitVec 8) : BitVec 32 :=
  version ++ BitVec.ofBool cxe ++ 0#4 ++ stateId ++ 0#8 ++ cxuId

/-- A reserved version: 2 to 7 (R31). -/
def versionReserved (v : BitVec 3) : Bool := v != 0 && v != 1

end Sys2Proof.Machine
end

