-- ==== Sys2Proof/Machine/Ops.lean ====
section
/-! DEFINITION. The named operations over the state: registers, `pc`, free values, memory and its protection,
taking an exception, returning from one. -/

namespace Sys2Proof.Machine

/-! ### Registers and `pc` -/

/-- Read `x[i]`: XLEN bits, `x[0]` is 0 (R12, R22). -/
def State.xr (s : State) (i : Reg) : Word :=
  if i = 0 then 0 else norm s.cfg.xlen (s.x[i.toNat]'i.isLt)

/-- Write `x[i]`; a write of `x[0]` is discarded (R12, R22). -/
def State.setX (s : State) (i : Reg) (v : Word) : State :=
  if i = 0 then s else { s with x := s.x.set i.toNat (norm s.cfg.xlen v) i.isLt }

/-- Write the destination register, if there is one (R201, R205). -/
def State.setDest (s : State) (dest : Option Reg) (v : Word) : State :=
  match dest with
  | none => s
  | some rd => s.setX rd v

/-- `pc <- t` (R12), modulo `2^XLEN` (R24). -/
def State.setPc (s : State) (t : Word) : State := { s with pc := norm s.cfg.xlen t }

/-- `pc <- pc + 4` (R12, R24). -/
def State.advance (s : State) : State := s.setPc (s.pc + 4)

/-! ### Free values (R12 `UNSPEC_N`) -/

/-- The next free value of 64 bits; the caller advances the counter by `State.drawn`. -/
def State.free (s : State) : Word := Config.freeWord s.draws

/-- The draw counter advanced: the free value has been used. -/
def State.drawn (s : State) : State := { s with draws := s.draws + 1 }

/-! ### Memory (R86, R318, R324) -/

/-- The address `k` bytes above `a`, modulo `2^XLEN`, as a memory key. -/
def State.addrKey (s : State) (a : Word) (k : Nat) : Nat :=
  (norm s.cfg.xlen (a + BitVec.ofNat 64 k)).toNat

/-- The byte at address `a + k`. -/
def State.byteAt (s : State) (a : Word) (k : Nat) : BitVec 8 := Memory.read s.mem (s.addrKey a k)

/-- `MemRead(a, 4)`, little-endian (R86). -/
def State.read32 (s : State) (a : Word) : BitVec 32 :=
  s.byteAt a 3 ++ s.byteAt a 2 ++ s.byteAt a 1 ++ s.byteAt a 0

/-- `MemRead(a, 8)`, little-endian. -/
def State.read64 (s : State) (a : Word) : Word := s.read32 (a + 4) ++ s.read32 a

/-- One byte stored at address `a + k`. -/
def State.setByte (s : State) (a : Word) (k : Nat) (b : BitVec 8) : State :=
  { s with mem := Memory.write s.mem (s.addrKey a k) b }

/-- `MemWrite(a, 4, v)`, little-endian (R86). -/
def State.write32 (s : State) (a : Word) (v : BitVec 32) : State :=
  (((s.setByte a 0 (v.extractLsb' 0 8)).setByte a 1 (v.extractLsb' 8 8)).setByte a 2
    (v.extractLsb' 16 8)).setByte a 3 (v.extractLsb' 24 8)

/-- `MemWrite(a, 8, v)`, little-endian. -/
def State.write64 (s : State) (a : Word) (v : Word) : State :=
  (s.write32 a (v.extractLsb' 0 32)).write32 (a + 4) (v.extractLsb' 32 32)

/-- What protection says of an access. -/
inductive MemVerdict where
  | allowed
  | accessFault
  | pageFault
  deriving DecidableEq, Repr

/-- A refused range meets the `n` bytes from `addr`. -/
def DenyRange.meets (r : DenyRange) (level : Priv) (addr n : Nat) (kind : AccessKind) : Bool :=
  r.level == level && r.kind == kind && decide (addr < r.hi) && decide (r.lo < addr + n)

/-- `MemAllowed(level, addr, n, kind)` (R324), telling a page fault of a host with virtual memory from an
access fault (R303). -/
def memCheck (cfg : Config) (level : Priv) (addr : Word) (n : Nat) (kind : AccessKind) : MemVerdict :=
  match cfg.memPolicy with
  | .ranges refused =>
    match refused.find? (fun r => DenyRange.meets r level addr.toNat n kind) with
    | none => .allowed
    | some r => if r.paged then .pageFault else .accessFault
  | .other id =>
    if Config.otherMemAllowed id level addr n kind then .allowed
    else if Config.otherMemPaged id level addr n kind then .pageFault
    else .accessFault

/-! ### Exceptions (R303, R343, R344) -/

/-- The exceptions of R303. -/
inductive TrapCause where
  | instrMisaligned
  | instrAccess
  | illegalInstruction
  | loadMisaligned
  | loadAccess
  | storeMisaligned
  | storeAccess
  | ecallUser
  | ecallSupervisor
  | ecallMachine
  | loadPage
  deriving DecidableEq, Repr

/-- The exception code: the value of `mcause` (R303). -/
def TrapCause.code : TrapCause → Word
  | .instrMisaligned => 0
  | .instrAccess => 1
  | .illegalInstruction => 2
  | .loadMisaligned => 4
  | .loadAccess => 5
  | .storeMisaligned => 6
  | .storeAccess => 7
  | .ecallUser => 8
  | .ecallSupervisor => 9
  | .ecallMachine => 11
  | .loadPage => 13

/-- `TakeTrap(cause, tval)` (R344): the one exception entry of the machine. -/
def State.takeTrap (s : State) (cause : TrapCause) (tval : Word) : State :=
  { s with
    mepc := s.pc
    mcause := cause.code
    mtval := norm s.cfg.xlen tval
    mstatus := mstatusOf false (mstatusMie s.mstatus) s.priv
    priv := .machine
    pc := clear2 s.mtvec }

/-- `raise IllegalInstruction(insn)` (R343, R344). -/
def State.illegal (s : State) (insn : Insn) : State :=
  s.takeTrap .illegalInstruction
    (match s.cfg.mtvalRule with
    | .insn => zextX insn
    | .zero => 0)

/-- An exception for which the spec states no trap value: `mtval` receives a free value
(notes/assumptions/7.md). -/
def State.trapFreeTval (s : State) (cause : TrapCause) : State := (s.drawn).takeTrap cause s.free

/-- The exception a refused load raises (R85, R303, R346). -/
def loadFaultCause : MemVerdict → TrapCause
  | .pageFault => .loadPage
  | .accessFault => .loadAccess
  | .allowed => .loadAccess

/-- `ecall` from a level (R303, R319). -/
def ecallCause : Priv → TrapCause
  | .user => .ecallUser
  | .supervisor => .ecallSupervisor
  | .machine => .ecallMachine

/-- The return from an exception (R320): `priv`, `mstatus` and `pc` from what the entry saved. -/
def State.returnFromTrap (s : State) : State :=
  { s with
    priv := mstatusMpp s.mstatus
    mstatus := mstatusOf (mstatusMpie s.mstatus) true (leastLevel s.cfg.modes)
    pc := s.mepc }

/-- A control transfer to `t` (R315 to R317): a target that is no multiple of 4 raises instruction address
misaligned; else `link` is performed and `pc <- t`. -/
def State.jump (s : State) (t : Word) (link : State → State) : State :=
  if t &&& 3#64 = 0 then (link s).setPc t else s.trapFreeTval .instrMisaligned

/-! ### BUILTIN (R210) -/

/-- The hart a built-in instruction leaves, with every field made one its register can hold
(notes/assumptions/9.md). -/
def Hart.legal (cfg : Config) (h : Hart) : Hart where
  x := (h.x.map (norm cfg.xlen)).set 0 0
  pc := clear2 (norm cfg.xlen h.pc)
  priv := if implemented cfg.modes h.priv then h.priv else .machine
  mcxSelector := selectorBits h.mcxSelector
  cxStatus := statusBits h.cxStatus
  mcxTable := keepLow (12 + cfg.basePageBits) (norm cfg.xlen h.mcxTable) &&& ~~~0xFFF#64
  cxIndex := h.cxIndex &&& 0x3FF#32
  mstatus := mstatusOf (mstatusMie h.mstatus) (mstatusMpie h.mstatus)
    (if implemented cfg.modes (mstatusMpp h.mstatus) then mstatusMpp h.mstatus else .machine)
  mtvec := clear2 (norm cfg.xlen h.mtvec)
  mscratch := norm cfg.xlen h.mscratch
  mepc := clear2 (norm cfg.xlen h.mepc)
  mcause := keepLow (xlenBits cfg.xlen - 1) h.mcause
  mtval := norm cfg.xlen h.mtval

/-- `BUILTIN(insn)`: the configured built-in instruction, or illegal-instruction where there is none (R210). -/
def State.builtin (s : State) (insn : Insn) : State :=
  match s.cfg.builtin with
  | none => s.illegal insn
  | some id =>
    match builtinEffect id insn s.toHart with
    | none => s.illegal insn
    | some h => { s with toHart := h.legal s.cfg }

end Sys2Proof.Machine
end

