-- ==== Sys2Proof/Machine/Operands.lean ====
section
/-! DEFINITION. Every operand form of the encodings: immediates, addresses, targets, CF_IDs
(spec/30_encoding.md R112 to R114, spec/45_host_base_subset.md). -/

namespace Sys2Proof.Machine

/-- The I-type and S-type immediate `sext_XLEN(imm)` (R113, R306, R313). -/
def State.imm12 (s : State) (imm : BitVec 12) : Word := sextX s.cfg.xlen imm

/-- `sext_XLEN({imm20, 0x000})` (R305). -/
def State.upperImm (s : State) (imm20 : BitVec 20) : Word := sextX s.cfg.xlen (imm20 ++ 0#12)

/-- `zext_XLEN(uimm)` (R113). -/
def uimmOperand (uimm : BitVec 5) : Word := zextX uimm

/-- The CSR address as an operand, `zext_XLEN(csr)` (R113, R204). -/
def csrOperand (csr : CsrAddr) : Word := zextX csr

/-- The CSR address a request carries in `req_data1` (R206). -/
def csrOfOperand (d1 : Word) : CsrAddr := d1.setWidth 12

/-- The 3-bit CF_ID of the I-type, zero-extended (R112). -/
def cfIdOfImm (f : BitVec 3) : CfId := f.setWidth 10

/-- The base-plus-offset address of a load or store, modulo `2^XLEN` (R311, R313). -/
def State.effAddr (s : State) (rs1 : Reg) (imm : BitVec 12) : Word :=
  norm s.cfg.xlen (s.xr rs1 + s.imm12 imm)

/-- The target of a branch: `pc + sext(offset)`, from bits 12:1 of the offset (R315). -/
def State.branchTarget (s : State) (off : BitVec 12) : Word :=
  norm s.cfg.xlen (s.pc + (off ++ 0#1).signExtend 64)

/-- The target of a jump: `pc + sext(offset)`, from bits 20:1 of the offset (R317). -/
def State.jumpTarget (s : State) (off : BitVec 20) : Word :=
  norm s.cfg.xlen (s.pc + (off ++ 0#1).signExtend 64)

/-- `cx_flex25` read as `cx_flex`: `cf_id = {custom[24:18], custom[7:5]}` (R111, R146). -/
def flexCfId (custom : BitVec 25) : CfId := custom.extractLsb' 18 7 ++ custom.extractLsb' 5 3

/-- `rs1 = custom[12:8]` (R111). -/
def flexRs1 (custom : BitVec 25) : Reg := custom.extractLsb' 8 5

/-- `rs2 = custom[17:13]` (R111). -/
def flexRs2 (custom : BitVec 25) : Reg := custom.extractLsb' 13 5

/-- With XLEN = 32 a shift amount of 32 or more is no instruction (R309). -/
def State.shamtIllegal (s : State) (shamt : BitVec 6) : Bool :=
  match s.cfg.xlen with
  | .rv32 => shamt.getLsbD 5
  | .rv64 => false

end Sys2Proof.Machine
end

