-- ==== Sys2Proof/Machine/Arith.lean ====
section
/-! DEFINITION. The integer computational instructions (spec/45_host_base_subset.md R305 to R310). -/

namespace Sys2Proof.Machine

/-- The shift amount as a number. -/
def shamtNat (shamt : BitVec 6) : Nat := shamt.toNat

/-- `LUI` (R305). -/
def execLui (rd : Reg) (imm20 : BitVec 20) (s : State) : Host.Outcome State Fault Refusal :=
  .next ((s.setX rd (s.upperImm imm20)).advance)

/-- `ADDI` (R306). -/
def execAddi (rd rs1 : Reg) (imm : BitVec 12) (s : State) : Host.Outcome State Fault Refusal :=
  .next ((s.setX rd (s.xr rs1 + s.imm12 imm)).advance)

/-- `ADD` (R307). -/
def execAdd (rd rs1 rs2 : Reg) (s : State) : Host.Outcome State Fault Refusal :=
  .next ((s.setX rd (s.xr rs1 + s.xr rs2)).advance)

/-- `ANDI` (R308). -/
def execAndi (rd rs1 : Reg) (imm : BitVec 12) (s : State) : Host.Outcome State Fault Refusal :=
  .next ((s.setX rd (s.xr rs1 &&& s.imm12 imm)).advance)

/-- `SLLI` (R309). -/
def execSlli (rd rs1 : Reg) (shamt : BitVec 6) (s : State) : Host.Outcome State Fault Refusal :=
  .next (if s.shamtIllegal shamt then s.illegal (encode s.cfg (.slli rd rs1 shamt))
    else (s.setX rd (s.xr rs1 <<< shamtNat shamt)).advance)

/-- `SRLI` (R310). -/
def execSrli (rd rs1 : Reg) (shamt : BitVec 6) (s : State) : Host.Outcome State Fault Refusal :=
  .next (if s.shamtIllegal shamt then s.illegal (encode s.cfg (.srli rd rs1 shamt))
    else (s.setX rd (s.xr rs1 >>> shamtNat shamt)).advance)

end Sys2Proof.Machine
end

