-- ==== Sys2Proof/Machine/Control.lean ====
section
/-! DEFINITION. Control transfer (spec/45_host_base_subset.md R315 to R317). -/

namespace Sys2Proof.Machine

/-- A conditional branch (R315): not taken it never traps. -/
def State.branch (s : State) (taken : Bool) (off : BitVec 12) : State :=
  if taken then s.jump (s.branchTarget off) id else s.advance

/-- `BEQ` (R315). -/
def execBeq (rs1 rs2 : Reg) (off : BitVec 12) (s : State) : Host.Outcome State Fault Refusal :=
  .next (s.branch (s.xr rs1 == s.xr rs2) off)

/-- `BNE` (R316). -/
def execBne (rs1 rs2 : Reg) (off : BitVec 12) (s : State) : Host.Outcome State Fault Refusal :=
  .next (s.branch (s.xr rs1 != s.xr rs2) off)

/-- `JAL` (R317): the link register receives `pc + 4`. -/
def execJal (rd : Reg) (off : BitVec 20) (s : State) : Host.Outcome State Fault Refusal :=
  .next (s.jump (s.jumpTarget off) (fun t => t.setX rd (s.pc + 4)))

end Sys2Proof.Machine
end

