-- ==== Sys2Proof/Machine/Context.lean ====
section
/-! DEFINITION. State contexts: their storage, reset, the mandatory CX CSRs (spec/43_cx_state_context_csrs.md)
and the four standard custom functions (spec/44_standard_custom_functions.md). -/

namespace Sys2Proof.Machine

/-! ### Storage (R47 to R49) -/

/-- The two bits of a context status (R50). -/
def CtxStatus.bits : CtxStatus → BitVec 2
  | .off => 0
  | .initial => 1
  | .clean => 2
  | .dirty => 3

/-- The context status of two bits (R50). -/
def ctxStatusOf (b : BitVec 2) : CtxStatus :=
  if b = 0 then .off else if b = 1 then .initial else if b = 2 then .clean else .dirty

/-- `Ctx(c, s)` (R47). A key the list does not hold reads as the power-up state. -/
def State.ctx (st : State) (cx : ExtConfig) (c s : BitVec 8) : Ctx :=
  (Cells.get st.ctxs (ctxKey c s)).getD (Ctx.powerUp cx)

/-- Replace `Ctx(c, s)`; every other context is unchanged (R48). -/
def State.setCtx (st : State) (c s : BitVec 8) (ctx : Ctx) : State :=
  { st with ctxs := Cells.set st.ctxs (ctxKey c s) ctx }

/-- `Inactive(ctx)` (R208). -/
def Ctx.inactive (ctx : Ctx) : Bool := ctx.cs == .off || ctx.rst

/-- `size(ctx.st)`. -/
def Ctx.size (cx : ExtConfig) (ctx : Ctx) : BitVec 16 := cx.size ctx.st

/-! ### CsrOp (R184) -/

/-- The value a CSR access writes, from the old value and the operand (R184). -/
def csrNew (fn : CsrFn) (old d0 : Word) : Word :=
  match fn with
  | .read => old
  | .write => d0
  | .set => old ||| d0
  | .clear => old &&& ~~~d0

/-! ### Reset and turning off (R249 to R251) -/

/-- `StartReset(ctx)` (R250): `rst <- 1`, nothing else; a reset in progress continues. `steps` is how long it
stays in progress (`reset_steps`, R249). -/
def Ctx.startReset (ctx : Ctx) (steps : Nat) : Ctx :=
  if ctx.rst then ctx else { ctx with rst := true, stepsLeft := steps }

/-- `ResetComplete(c, s)` (R249). -/
def Ctx.completeReset (cx : ExtConfig) (ctx : Ctx) : Ctx :=
  { ctx with st := cx.initial, error := 0, index := 0, incr := false, cs := .initial, rst := false,
             stepsLeft := 0 }

/-- `TurnOff(ctx)` (R251): the content is unspecified from now on; `index` and `incr` are unchanged. -/
def Ctx.turnOff (cx : ExtConfig) (x : Xlen) (ctx : Ctx) (freeSt : CxState) (freeErr : Word) : Ctx :=
  { ctx with cs := .off, st := cx.holds freeSt, error := cx.errBits x freeErr }

/-! ### The four mandatory CX CSRs (R51, R240 to R256) -/

/-- The mandatory CX CSRs (R51). -/
inductive StdCsr where
  | error
  | status
  | index
  | data
  deriving DecidableEq, Repr

/-- The mandatory CX CSR at an address (R51). -/
def stdCsr? (a : CsrAddr) : Option StdCsr :=
  if a = 0x8FF#12 then some .error
  else if a = 0x5FF#12 then some .status
  else if a = 0x5FE#12 then some .index
  else if a = 0x5FD#12 then some .data
  else none

/-- The `scxs_status` layout (R53): version 0 at 31:29, `cs` at 28:27, `rst` at 26, `size` at 15:0. -/
def scxsStatusWord (cs : BitVec 2) (rst : Bool) (size : BitVec 16) : Word :=
  zextX (0#3 ++ cs ++ BitVec.ofBool rst ++ 0#10 ++ size : BitVec 32)

/-- `StatusRead(ctx)` (R243). -/
def Ctx.statusRead (cx : ExtConfig) (ctx : Ctx) : Word :=
  scxsStatusWord ctx.cs.bits ctx.rst (ctx.size cx)

/-- `IndexRead(ctx)` (R252). -/
def Ctx.indexRead (ctx : Ctx) : Word :=
  zextX (BitVec.ofBool ctx.incr ++ 0#15 ++ ctx.index : BitVec 32)

/-- The `cs` field of a written `scxs_status` value. -/
def csField (v : Word) : BitVec 2 := v.extractLsb' 27 2

/-- The `rst` field of a written `scxs_status` value. -/
def rstField (v : Word) : Bool := v.getLsbD 26

/-- The 16-bit field in bits 15:0: `size` of `scxs_status`, `index` of `scxs_index`. -/
def low16 (v : Word) : BitVec 16 := v.extractLsb' 0 16

/-- `IndexWrite(ctx, v)` (R253): `incr` from bit 31; the index in its `INDEX_W` bits, zeroed when it is not
below the size. -/
def Ctx.indexWrite (cx : ExtConfig) (ctx : Ctx) (v : Word) : Ctx :=
  let i := keepLow16 cx.indexW (low16 v)
  { ctx with incr := v.getLsbD 31, index := if i < ctx.size cx then i else 0 }

/-- The index after one access of `scxs_data` (R254, R256): incremented if `incr`, zeroed at the size. -/
def Ctx.bumpIndex (cx : ExtConfig) (ctx : Ctx) : Ctx :=
  if ctx.incr then
    { ctx with index :=
        if ctx.index.toNat + 1 < (ctx.size cx).toNat then keepLow16 cx.indexW (ctx.index + 1) else 0 }
  else ctx

/-- The context is replaced and one or more free values have been used. -/
def State.setCtxDrawn (s : State) (c i : BitVec 8) (ctx : Ctx) : State := (s.setCtx c i ctx).drawn

/-- `StatusWrite(ctx, v)` on an active context (R247). -/
def State.statusWrite (s : State) (cx : ExtConfig) (c i : BitVec 8) (v : Word) : State :=
  let ctx := s.ctx cx c i
  if rstField v then
    s.setCtxDrawn c i (ctx.startReset (Config.freeResetSteps s.draws))
  else if csField v = 0 then
    s.setCtxDrawn c i
      { ctx.turnOff cx s.cfg.xlen (Config.freeCxState s.draws) s.free with
        st := cx.sizeWrite (cx.holds (Config.freeCxState s.draws)) (low16 v) }
  else
    s.setCtx c i { ctx with cs := ctxStatusOf (csField v), st := cx.sizeWrite ctx.st (low16 v) }

/-- `DataAccess(ctx, op, d0)` (R254 to R256). -/
def State.dataAccess (s : State) (cx : ExtConfig) (c i : BitVec 8) (fn : CsrFn) (d0 : Word) : Word × State :=
  let ctx := s.ctx cx c i
  let n := (ctx.size cx).toNat
  if ctx.index.toNat < n then
    let old := norm s.cfg.xlen (cx.saveWord ctx.st ctx.index.toNat)
    let ctx' :=
      if fn = .read then ctx
      else { ctx with
        st := cx.loadWord ctx.st ctx.index.toNat (norm s.cfg.xlen (csrNew fn old d0)), cs := .dirty }
    (old, s.setCtx c i (ctx'.bumpIndex cx))
  else (norm s.cfg.xlen s.free, s.setCtxDrawn c i (ctx.bumpIndex cx))

/-- `StdCsrInactive` with a reset in progress (R248): writes are ignored, unspecified values are read. -/
def State.stdCsrResetting (s : State) (r : StdCsr) : Word × State :=
  match r with
  | .status => (scxsStatusWord (s.free.extractLsb' 16 2) true (low16 s.free), s.drawn)
  | .error => (norm s.cfg.xlen s.free, s.drawn)
  | .index => (norm s.cfg.xlen s.free, s.drawn)
  | .data => (norm s.cfg.xlen s.free, s.drawn)

/-- `StdCsrInactive` of a context that is off (R248). -/
def State.stdCsrOff (s : State) (cx : ExtConfig) (c i : BitVec 8) (r : StdCsr) (fn : CsrFn) (d0 : Word) :
    Word × State :=
  let ctx := s.ctx cx c i
  match r with
  | .status =>
    let old := scxsStatusWord 0 false (low16 s.free)
    let new := csrNew fn old d0
    if fn = .read then (old, s.drawn)
    else if rstField new then
      (old, s.setCtxDrawn c i (ctx.startReset (Config.freeResetSteps s.draws)))
    else if csField new = 0 then (old, s.drawn)
    else (old, s.setCtxDrawn c i { ctx with cs := ctxStatusOf (csField new) })
  | .error =>
    if fn = .read then (ctx.error, s)
    else (ctx.error, s.setCtx c i { ctx with error := cx.errBits s.cfg.xlen (csrNew fn ctx.error d0) })
  | .index =>
    if fn = .read then (ctx.indexRead, s)
    else
      (ctx.indexRead, s.setCtxDrawn c i
        { ctx with
          incr := (csrNew fn ctx.indexRead d0).getLsbD 31
          index := keepLow16 cx.indexW (low16 s.free) })
  | .data => (norm s.cfg.xlen s.free, s.drawn)

/-- `StdCsr` of an active context (R240). -/
def State.stdCsrActive (s : State) (cx : ExtConfig) (c i : BitVec 8) (r : StdCsr) (fn : CsrFn) (d0 : Word) :
    Word × State :=
  let ctx := s.ctx cx c i
  match r with
  | .error =>
    if fn = .read then (ctx.error, s)
    else (ctx.error, s.setCtx c i { ctx with error := cx.errBits s.cfg.xlen (csrNew fn ctx.error d0) })
  | .status =>
    if fn = .read then (ctx.statusRead cx, s)
    else (ctx.statusRead cx, s.statusWrite cx c i (csrNew fn (ctx.statusRead cx) d0))
  | .index =>
    if fn = .read then (ctx.indexRead, s)
    else (ctx.indexRead, s.setCtx c i (ctx.indexWrite cx (csrNew fn ctx.indexRead d0)))
  | .data => s.dataAccess cx c i fn d0

/-- `StdCsr(c, s, a, op, d0)` (R240, R248): the response data and the state after; the status is OK. -/
def State.stdCsr (s : State) (cx : ExtConfig) (c i : BitVec 8) (r : StdCsr) (fn : CsrFn) (d0 : Word) :
    Word × State :=
  if (s.ctx cx c i).rst then s.stdCsrResetting r
  else if (s.ctx cx c i).cs = .off then s.stdCsrOff cx c i r fn d0
  else s.stdCsrActive cx c i r fn d0

/-! ### The four standard custom functions (R280 to R287) -/

/-- The standard custom functions (R280). -/
inductive StdFn where
  | readStatus
  | writeStatus
  | readState
  | writeState
  deriving DecidableEq, Repr

/-- The standard function of a CF_ID (R281, R287). -/
def stdFn? (cfg : Config) (f : CfId) : Option StdFn :=
  if f = cfg.cfReadStatus then some .readStatus
  else if f = cfg.cfWriteStatus then some .writeStatus
  else if f = cfg.cfReadState then some .readState
  else if f = cfg.cfWriteState then some .writeState
  else none

/-- The state status word of a context: `ReadStatus(ctx)` (R283). -/
def Ctx.statusWord (cfg : Config) (cx : ExtConfig) (ctx : Ctx) : Word :=
  statusPack cfg ctx.cs.bits (ctx.size cx) ctx.error

/-- The context changes of `WriteStatus(ctx, d0)` (R284). -/
def State.writeStatus (s : State) (cx : ExtConfig) (c i : BitVec 8) (d0 : Word) : State :=
  let ctx := s.ctx cx c i
  let w := statusUnpack s.cfg d0
  match ctxStatusOf w.1 with
  | .initial => s.setCtxDrawn c i (ctx.startReset (Config.freeResetSteps s.draws))
  | .off =>
    s.setCtxDrawn c i (ctx.turnOff cx s.cfg.xlen (Config.freeCxState s.draws) s.free)
  | .clean =>
    s.setCtx c i { ctx with
      cs := .clean, error := cx.errBits s.cfg.xlen w.2.2, st := cx.sizeWrite ctx.st w.2.1 }
  | .dirty =>
    s.setCtx c i { ctx with
      cs := .dirty, error := cx.errBits s.cfg.xlen w.2.2, st := cx.sizeWrite ctx.st w.2.1 }

/-- `ReadState(ctx, d0)` (R285). -/
def State.readState (s : State) (cx : ExtConfig) (c i : BitVec 8) (d0 : Word) : Word × State :=
  let ctx := s.ctx cx c i
  if d0.toNat < (ctx.size cx).toNat then (norm s.cfg.xlen (cx.saveWord ctx.st d0.toNat), s)
  else (norm s.cfg.xlen s.free, s.drawn)

/-- `WriteState(ctx, d0, d1)` (R286). -/
def State.writeState (s : State) (cx : ExtConfig) (c i : BitVec 8) (d0 d1 : Word) : State :=
  let ctx := s.ctx cx c i
  if d0.toNat < (ctx.size cx).toNat then
    s.setCtx c i { ctx with st := cx.loadWord ctx.st d0.toNat d1, cs := .dirty }
  else s

/-- `StdCf(c, s, func, d0, d1)` (R287): the response data and the state after; the status is OK. -/
def State.stdCf (s : State) (cx : ExtConfig) (c i : BitVec 8) (f : StdFn) (d0 d1 : Word) : Word × State :=
  match f with
  | .readStatus => ((s.ctx cx c i).statusWord s.cfg cx, s)
  | .writeStatus => ((s.ctx cx c i).statusWord s.cfg cx, s.writeStatus cx c i d0)
  | .readState => s.readState cx c i d0
  | .writeState => (d1, s.writeState cx c i d0 d1)

/-! ### Reset completion, a step of the CXU (R249) -/

/-- One hart step passes for one listed context: a reset whose steps are used up completes. -/
def tickCtx (cfg : Config) (e : Nat × Ctx) : Nat × Ctx :=
  if e.2.rst then
    match e.2.stepsLeft with
    | n + 1 => (e.1, { e.2 with stepsLeft := n })
    | 0 =>
      match cxuOf cfg (BitVec.ofNat 8 (e.1 / 256)) with
      | some cx => (e.1, e.2.completeReset cx)
      | none => e
  else e

/-- One hart step passes for every context: each reset counts on its own (R249, R55). -/
def State.tick (s : State) : State := { s with ctxs := s.ctxs.map (tickCtx s.cfg) }

end Sys2Proof.Machine
end

