-- ==== Sys2Proof/Machine/CustomOp.lean ====
section
/-! DEFINITION. Execution of a custom operation: dispatch on `mcx_selector`, the error decision, the CXU
request and response, the commit (spec/42_custom_operation_execution.md R200 to R212). -/

namespace Sys2Proof.Machine

/-- The kind of a custom operation (R201). -/
inductive OpKind where
  | cf0
  | cf1
  | cf2
  | cf3
  | csrAcc
  deriving DecidableEq, Repr

/-- The function field of a request as one 11-bit integer: CF_IDs 0..1023, `CSRR` to `CSRRC` 1024..1027
(R66, R181). -/
def funcCode : FuncId → BitVec 11
  | .cf id => id.setWidth 11
  | .csr .read => 1024
  | .csr .write => 1025
  | .csr .set => 1026
  | .csr .clear => 1027

/-- A CXU request (R204): what the hart sends to the selected CXU. -/
structure CxuRequest where
  /-- `req_cxu` -/
  cxu : BitVec 8
  /-- `req_state` -/
  state : BitVec 8
  /-- `req_insn` -/
  insn : Insn
  /-- `req_func` -/
  func : FuncId
  /-- `req_data0` -/
  data0 : Word
  /-- `req_data1` -/
  data1 : Word
  deriving DecidableEq, Repr

/-- `ValidState(cx, s)` (R207): a stateless extension accepts 0, and the others its parameter names. -/
def validState (cx : ExtConfig) (s : BitVec 8) : Bool :=
  if cx.stateful then decide (s.toNat < cx.nContexts)
  else s == 0 || cx.statelessStates.getLsbD s.toNat

/-- The identity CX CSR at an address, if the extension provides it (R262). -/
def guidCsr? (cfg : Config) (cx : ExtConfig) (a : CsrAddr) : Option GuidCsr :=
  if cx.identity then cfg.guidCsrs.find? (fun g => g.addr == a) else none

/-- Word `k` of a 128-bit identifier, words of XLEN bits from the least significant (R58, R262). -/
def guidWord (x : Xlen) (cx : ExtConfig) (g : GuidCsr) : Word :=
  let id := match g.which with
    | .cx => cx.cxGuid
    | .cxu => cx.cxuGuid
  norm x (id.extractLsb' (g.word * xlenBits x) 64)

/-- `valid_csr(a)` (R8, R206): for a stateful extension the mandatory four, the configured identity CSRs, and
the extension's own. -/
def validCsr (cfg : Config) (cx : ExtConfig) (a : CsrAddr) : Bool :=
  (cx.stateful && (stdCsr? a).isSome) || (guidCsr? cfg cx a).isSome || cx.validCsrs.contains a

/-- `ValidFunc(cx, kind, func, d1)` (R206). -/
def validFunc (cfg : Config) (cx : ExtConfig) (func : FuncId) (d1 : Word) : Bool :=
  match func with
  | .cf f => cx.validCfs.contains f || (cx.stateful && (stdFn? cfg f).isSome)
  | .csr _ => validCsr cfg cx (csrOfOperand d1)

/-- `OffApplies(kind, func, d1)` (R208). -/
def offApplies (func : FuncId) (d1 : Word) : Bool :=
  match func with
  | .cf _ => true
  | .csr _ => (stdCsr? (csrOfOperand d1)).isNone

/-- `modifies` (R8, R209): what the extension says, and at least every change of state or error. -/
def modifiesCtx (cx : ExtConfig) (func : FuncId) (d0 d1 : Word) (ctx ctx' : Ctx) : Bool :=
  cx.saysModifies func d0 d1 ctx.st ctx.error || decide (ctx'.st ≠ ctx.st) || decide (ctx'.error ≠ ctx.error)

/-- The commit of an extension's result to the context: state, error, and `dirty` (R209, R211). -/
def State.commitCtx (s : State) (cx : ExtConfig) (r : CxuRequest) (res : CxResult) : State :=
  let ctx := s.ctx cx r.cxu r.state
  let ctx' := { ctx with st := res.st, error := cx.errBits s.cfg.xlen res.err }
  s.setCtx r.cxu r.state
    (if modifiesCtx cx r.func r.data0 r.data1 ctx ctx' then { ctx' with cs := .dirty } else ctx')

/-- The status of a stateless extension's answer. -/
def pureResp (op : Bool) : CxResp := if op then .op else .ok

/-- `Perform` for a CF_ID (R211): a standard function, the function of a stateful extension, or the pure
function of a stateless one. -/
def State.performCf (s : State) (cx : ExtConfig) (r : CxuRequest) (f : CfId) : Word × CxResp × State :=
  if cx.stateful then
    match stdFn? s.cfg f with
    | some fn =>
      let a := s.stdCf cx r.cxu r.state fn r.data0 r.data1
      (a.1, .ok, a.2)
    | none =>
      let ctx := s.ctx cx r.cxu r.state
      let res := cx.cf f r.data0 r.data1 r.insn ctx.st ctx.error
      (norm s.cfg.xlen res.data, res.status, s.commitCtx cx r res)
  else
    let a := cx.pureCf f r.data0 r.data1 r.insn
    (norm s.cfg.xlen a.1, pureResp a.2, s)

/-- The extension's own CX CSR (R211, R212, R261). -/
def State.performExtCsr (s : State) (cx : ExtConfig) (r : CxuRequest) (fn : CsrFn) (a : CsrAddr) :
    Word × CxResp × State :=
  if cx.stateful then
    let ctx := s.ctx cx r.cxu r.state
    let res := cx.csr a fn r.data0 ctx.st ctx.error
    (norm s.cfg.xlen res.data, res.status, s.commitCtx cx r res)
  else
    let v := cx.constCsr a fn r.data0
    (norm s.cfg.xlen v.1, pureResp v.2, s)

/-- A CX CSR that is none of the mandatory four: an identity CSR or the extension's own (R211, R262). -/
def State.performOtherCsr (s : State) (cx : ExtConfig) (r : CxuRequest) (fn : CsrFn) (a : CsrAddr) :
    Word × CxResp × State :=
  match guidCsr? s.cfg cx a with
  | some g => (guidWord s.cfg.xlen cx g, .ok, s)
  | none => s.performExtCsr cx r fn a

/-- `Perform` for a CX CSR access (R211). -/
def State.performCsr (s : State) (cx : ExtConfig) (r : CxuRequest) (fn : CsrFn) (a : CsrAddr) :
    Word × CxResp × State :=
  if cx.stateful then
    match stdCsr? a with
    | some reg =>
      let v := s.stdCsr cx r.cxu r.state reg fn r.data0
      (v.1, .ok, v.2)
    | none => s.performOtherCsr cx r fn a
  else s.performOtherCsr cx r fn a

/-- `Perform(cx, c, s, kind, func, d0, d1)` (R211). -/
def State.perform (s : State) (cx : ExtConfig) (r : CxuRequest) : Word × CxResp × State :=
  match r.func with
  | .cf f => s.performCf cx r f
  | .csr fn => s.performCsr cx r fn (csrOfOperand r.data1)

/-- `Decide` (R203): the response data, the one flag to set, the state with the context updated. -/
def State.decideOp (s : State) (r : CxuRequest) : Word × Option CxFlag × State :=
  match cxuOf s.cfg r.cxu with
  | none => (0, some .invalidCxu, s)
  | some cx =>
    if !validState cx r.state then (0, some .invalidState, s)
    else if cx.stateful && (s.ctx cx r.cxu r.state).inactive && offApplies r.func r.data1 then
      (norm s.cfg.xlen s.free, some .contextOff, s.drawn)
    else if !validFunc s.cfg cx r.func r.data1 then
      (norm s.cfg.xlen s.free, some .invalidFunc, s.drawn)
    else
      let p := s.perform cx r
      (p.1, respFlag p.2.1, p.2.2)

/-- `Multiplex` (R202): the flag, the destination register, `pc + 4`. -/
def State.multiplex (s : State) (r : CxuRequest) (dest : Option Reg) : State :=
  let d := s.decideOp r
  ((d.2.2.setFlag d.2.1).setDest dest d.1).advance

/-- `ExecCustomOp(kind, func, d0, d1, dest)` (R201). -/
def State.customOp (s : State) (kind : OpKind) (insn : Insn) (func : FuncId) (d0 d1 : Word)
    (dest : Option Reg) : State :=
  let sel := s.mcxSelector
  if versionReserved (selVersion sel) then
    ((s.setFlag (some .invalidVersion)).setDest dest 0).advance
  else if selCxe sel then s.illegal insn
  else if selVersion sel = 0 then s.builtin insn
  else if kind = .cf3 then s.builtin insn
  else
    s.multiplex
      { cxu := selCxuId sel, state := selStateId sel, insn := insn, func := func, data0 := d0, data1 := d1 }
      dest

end Sys2Proof.Machine
end

