-- ==== Sys2Proof/Machine/CsrAccess.lean ====
section
/-! DEFINITION. The CSR address space and the common execution of the six CSR instructions
(spec/41_csr_access.md R160 to R187, spec/45_host_base_subset.md R302, R321). -/

namespace Sys2Proof.Machine

/-! ### Classes of addresses (R160) -/

/-- The CX-ISA CSRs (R26). -/
inductive CxIsaCsr where
  | cxIndex
  | cxStatus
  | mcxSelector
  | mcxTable
  deriving DecidableEq, Repr

/-- The base CSRs (R302). -/
inductive BaseCsr where
  | mstatus
  | mtvec
  | mscratch
  | mepc
  | mcause
  | mtval
  deriving DecidableEq, Repr

/-- The class of a CSR address (R160). -/
inductive CsrClass where
  | cxIsa (r : CxIsaCsr)
  | custom
  | base (r : BaseCsr)
  | absent
  deriving DecidableEq, Repr

/-- `lo ≤ a ≤ hi`. -/
def inRange (a lo hi : CsrAddr) : Bool := decide (lo ≤ a) && decide (a ≤ hi)

/-- The ranges set aside for custom use (R162). -/
def inCustomRange (a : CsrAddr) : Bool :=
  inRange a 0x800 0x8FF || inRange a 0xCC0 0xCFF || inRange a 0x5C0 0x5FF || inRange a 0x9C0 0x9FF
    || inRange a 0xDC0 0xDFF || inRange a 0x6C0 0x6FF || inRange a 0xAC0 0xAFF || inRange a 0xEC0 0xEFF
    || inRange a 0x7C0 0x7FF || inRange a 0xBC0 0xBFF || inRange a 0xFC0 0xFFF

/-- The CX-ISA CSR at an address (R26). -/
def cxIsaCsr? (a : CsrAddr) : Option CxIsaCsr :=
  if a = 0x800#12 then some .cxIndex
  else if a = 0x801#12 then some .cxStatus
  else if a = 0xBC0#12 then some .mcxSelector
  else if a = 0xBC1#12 then some .mcxTable
  else none

/-- The base CSR at an address (R302). -/
def baseCsr? (a : CsrAddr) : Option BaseCsr :=
  if a = 0x300#12 then some .mstatus
  else if a = 0x305#12 then some .mtvec
  else if a = 0x340#12 then some .mscratch
  else if a = 0x341#12 then some .mepc
  else if a = 0x342#12 then some .mcause
  else if a = 0x343#12 then some .mtval
  else none

/-- `IsCustomCsrAddr(a)` (R163). -/
def isCustomCsr (a : CsrAddr) : Bool := inCustomRange a && (cxIsaCsr? a).isNone

/-- The class of an address (R160). -/
def csrClass (a : CsrAddr) : CsrClass :=
  match cxIsaCsr? a with
  | some r => .cxIsa r
  | none =>
    if isCustomCsr a then .custom
    else match baseCsr? a with
      | some r => .base r
      | none => .absent

/-- `Check(a, writes)` fails (R164): the level in `a[9:8]` is above `priv`, or a write to a read-only
address. -/
def csrDenied (a : CsrAddr) (writes : Bool) (p : Priv) : Bool :=
  decide (privCode p < a.extractLsb' 8 2) || (writes && a.extractLsb' 10 2 == 3#2)

/-! ### CX-ISA CSRs (R171 to R176) -/

/-- `WriteSelector(v)` (R171): the stored bits, and `IV` when the written version is reserved. -/
def State.writeSelector (s : State) (v : BitVec 32) : State :=
  let s' := { s with mcxSelector := selectorBits v }
  if versionReserved (selVersion v) then s'.setFlag (some .invalidVersion) else s'

/-- `WriteStatus(v)` (R172). -/
def State.writeCxStatus (s : State) (v : BitVec 32) : State := { s with cxStatus := statusBits v }

/-- What `WriteTable(v)` stores (R42, R173): the implemented bits of `base_page`, bits 11:0 zero. -/
def tableBits (cfg : Config) (v : Word) : Word :=
  keepLow (12 + cfg.basePageBits) (norm cfg.xlen v) &&& ~~~0xFFF#64

/-- `WriteTable(v)` (R173). -/
def State.writeTable (s : State) (v : Word) : State := { s with mcxTable := tableBits s.cfg v }

/-- `CXIDX_PRIV(priv)` (R84). -/
def cxidxPriv (cfg : Config) (p : Priv) : Priv :=
  match cfg.cxidxRule with
  | .machine => .machine
  | .nextHigher =>
    match p with
    | .user => if implemented cfg.modes .supervisor then .supervisor else .machine
    | .supervisor => .machine
    | .machine => .machine

/-- The address of a table entry: `mcx_table + 4*i` (R81, R83). DEDUCED (notes/assumptions/17.md): it is used
untranslated at every level of the load, at supervisor level too. -/
def State.entryAddr (s : State) (i : BitVec 10) : Word :=
  norm s.cfg.xlen (s.mcxTable + (i ++ 0#2).setWidth 64)

/-- `v[9:0]` (R175). -/
def indexOf (v : Word) : BitVec 10 := v.extractLsb' 0 10

/-- `WriteIndex(v)` (R175): the state after, or the cause of the fault of the implied load (R85, R346). -/
def State.writeIndex (s : State) (v : Word) : Except TrapCause State :=
  let a := s.entryAddr (indexOf v)
  match memCheck s.cfg (cxidxPriv s.cfg s.priv) a 4 .load with
  | .allowed => .ok ({ s with cxIndex := (indexOf v).setWidth 32 }.writeSelector (s.read32 a))
  | .accessFault => .error (loadFaultCause .accessFault)
  | .pageFault => .error (loadFaultCause .pageFault)

/-- The value a CX-ISA CSR reads as (R171 to R174). -/
def State.readCxIsa (s : State) (r : CxIsaCsr) : Word :=
  match r with
  | .cxIndex => zextX s.cxIndex
  | .cxStatus => zextX s.cxStatus
  | .mcxSelector => zextX s.mcxSelector
  | .mcxTable => norm s.cfg.xlen s.mcxTable

/-- The CSR exists (R26): `cx_index` and `mcx_table` only with access control. -/
def cxIsaExists (cfg : Config) (r : CxIsaCsr) : Bool :=
  match r with
  | .cxIndex => cfg.accessControl
  | .cxStatus => true
  | .mcxSelector => true
  | .mcxTable => cfg.accessControl

/-- `ExecCxIsaCsr` (R176): `x[rd]` receives the old value after the write, so that a load fault leaves it
unchanged. -/
def State.cxIsaAccess (s : State) (insn : Insn) (r : CxIsaCsr) (fn : CsrFn) (src : Word) (rd : Reg) : State :=
  let old := s.readCxIsa r
  let new := csrNew fn old src
  if !cxIsaExists s.cfg r then s.illegal insn
  else if fn = .read then (s.setX rd old).advance
  else match r with
    | .cxIndex =>
      match s.writeIndex new with
      | .ok t => (t.setX rd old).advance
      | .error cause => s.takeTrap cause (s.entryAddr (indexOf new))
    | .cxStatus => ((s.writeCxStatus (new.setWidth 32)).setX rd old).advance
    | .mcxSelector => ((s.writeSelector (new.setWidth 32)).setX rd old).advance
    | .mcxTable => ((s.writeTable new).setX rd old).advance

/-! ### Base CSRs (R302, R321) -/

/-- The value a base CSR reads as (R302). -/
def State.readBase (s : State) (r : BaseCsr) : Word :=
  norm s.cfg.xlen (match r with
    | .mstatus => s.mstatus
    | .mtvec => s.mtvec
    | .mscratch => s.mscratch
    | .mepc => s.mepc
    | .mcause => s.mcause
    | .mtval => s.mtval)

/-- The `MPP` a write of `v` leaves (R302): the written level if it is implemented, else a free choice among
the implemented ones (notes/assumptions/8.md). -/
def State.legalMpp (s : State) (v : Word) : Priv :=
  match mstatusMpp? v with
  | some p => if implemented s.cfg.modes p then p else pickLevel s.cfg.modes s.free.toNat
  | none => pickLevel s.cfg.modes s.free.toNat

/-- A write of a base CSR (R302): `mstatus` keeps `MIE`, `MPIE` and a legal `MPP`, `mtvec` and `mepc` clear
bits 1:0, the interrupt bit of `mcause` stays 0. -/
def State.writeBase (s : State) (r : BaseCsr) (v : Word) : State :=
  match r with
  | .mstatus => { s.drawn with mstatus := mstatusOf (mstatusMie v) (mstatusMpie v) (s.legalMpp v) }
  | .mtvec => { s with mtvec := clear2 (norm s.cfg.xlen v) }
  | .mscratch => { s with mscratch := norm s.cfg.xlen v }
  | .mepc => { s with mepc := clear2 (norm s.cfg.xlen v) }
  | .mcause => { s with mcause := keepLow (xlenBits s.cfg.xlen - 1) v }
  | .mtval => { s with mtval := norm s.cfg.xlen v }

/-- A CSR instruction at a base CSR (R321). -/
def State.baseAccess (s : State) (r : BaseCsr) (fn : CsrFn) (src : Word) (rd : Reg) : State :=
  let old := s.readBase r
  if fn = .read then (s.setX rd old).advance
  else ((s.writeBase r (csrNew fn old src)).setX rd old).advance

/-! ### The common execution (R161) -/

/-- The access function of an instruction, `csr_func_id` (R181): `CSRR` when it does not write, which for the
set and clear forms is when `rs1` or `uimm` is number 0. -/
def csrFnOf (kind : CsrFn) (r1 : BitVec 5) : CsrFn :=
  match kind with
  | .set => if r1 = 0 then .read else .set
  | .clear => if r1 = 0 then .read else .clear
  | .write => .write
  | .read => .read

/-- `CsrCommon(insn)` (R161): the checks of the address, then the class of the address. `fn` is
`csrFnOf` of the instruction; `writes` is `fn ≠ CSRR`. -/
def State.csrCommon (s : State) (insn : Insn) (a : CsrAddr) (fn : CsrFn) (src : Word) (rd : Reg) : State :=
  if csrDenied a (fn != .read) s.priv then s.illegal insn
  else match csrClass a with
    | .cxIsa r => s.cxIsaAccess insn r fn src rd
    | .custom => s.customOp .csrAcc insn (.csr fn) src (csrOperand a) (some rd)
    | .base r => s.baseAccess r fn src rd
    | .absent => s.illegal insn

end Sys2Proof.Machine
end

