-- ==== Sys2Proof/Machine/CsrInstructions.lean ====
section
/-! DEFINITION. The six CSR instructions (spec/41_csr_access.md R165 to R170). -/

namespace Sys2Proof.Machine

/-- `CSRRW` (R165). -/
def execCsrrw (rd : Reg) (csr : CsrAddr) (rs1 : Reg) (s : State) : Host.Outcome State Fault Refusal :=
  .next (s.csrCommon (encode s.cfg (.csrrw rd csr rs1)) csr .write (s.xr rs1) rd)

/-- `CSRRS` (R166). -/
def execCsrrs (rd : Reg) (csr : CsrAddr) (rs1 : Reg) (s : State) : Host.Outcome State Fault Refusal :=
  .next (s.csrCommon (encode s.cfg (.csrrs rd csr rs1)) csr (csrFnOf .set rs1) (s.xr rs1) rd)

/-- `CSRRC` (R167). -/
def execCsrrc (rd : Reg) (csr : CsrAddr) (rs1 : Reg) (s : State) : Host.Outcome State Fault Refusal :=
  .next (s.csrCommon (encode s.cfg (.csrrc rd csr rs1)) csr (csrFnOf .clear rs1) (s.xr rs1) rd)

/-- `CSRRWI` (R168). -/
def execCsrrwi (rd : Reg) (csr : CsrAddr) (uimm : BitVec 5) (s : State) : Host.Outcome State Fault Refusal :=
  .next (s.csrCommon (encode s.cfg (.csrrwi rd csr uimm)) csr .write (uimmOperand uimm) rd)

/-- `CSRRSI` (R169). -/
def execCsrrsi (rd : Reg) (csr : CsrAddr) (uimm : BitVec 5) (s : State) : Host.Outcome State Fault Refusal :=
  .next (s.csrCommon (encode s.cfg (.csrrsi rd csr uimm)) csr (csrFnOf .set uimm) (uimmOperand uimm) rd)

/-- `CSRRCI` (R170). -/
def execCsrrci (rd : Reg) (csr : CsrAddr) (uimm : BitVec 5) (s : State) : Host.Outcome State Fault Refusal :=
  .next (s.csrCommon (encode s.cfg (.csrrci rd csr uimm)) csr (csrFnOf .clear uimm) (uimmOperand uimm) rd)

end Sys2Proof.Machine
end

