-- ==== Sys2Proof/Machine/CustomFunctions.lean ====
section
/-! DEFINITION. The custom function instructions, custom-3 and the four standard custom functions
(spec/40_cf_instructions.md R140 to R147, spec/44_standard_custom_functions.md R281 to R286). -/

namespace Sys2Proof.Machine

/-- An R-type custom function instruction (R143): operands `x[rs1]`, `x[rs2]`, result to `x[rd]`. -/
def State.cfReg (s : State) (insn : Insn) (f : CfId) (rd rs1 rs2 : Reg) : State :=
  s.customOp .cf0 insn (.cf f) (s.xr rs1) (s.xr rs2) (some rd)

/-- A flex-type custom function instruction (R145): operands `x[rs1]`, `x[rs2]`, no destination. -/
def State.cfFlex (s : State) (insn : Insn) (f : CfId) (rs1 rs2 : Reg) : State :=
  s.customOp .cf2 insn (.cf f) (s.xr rs1) (s.xr rs2) none

/-- `cx_reg` (R143). -/
def execCxReg (cfId : CfId) (rd rs1 rs2 : Reg) (s : State) : Host.Outcome State Fault Refusal :=
  .next (s.cfReg (encode s.cfg (.cxReg cfId rd rs1 rs2)) cfId rd rs1 rs2)

/-- `cx_imm` (R144): the second operand is the sign-extended immediate. -/
def execCxImm (cfId : BitVec 3) (rd rs1 : Reg) (imm : BitVec 12) (s : State) :
    Host.Outcome State Fault Refusal :=
  .next (s.customOp .cf1 (encode s.cfg (.cxImm cfId rd rs1 imm)) (.cf (cfIdOfImm cfId)) (s.xr rs1)
    (s.imm12 imm) (some rd))

/-- `cx_flex` (R145). -/
def execCxFlex (cfId : CfId) (rs1 rs2 : Reg) (s : State) : Host.Outcome State Fault Refusal :=
  .next (s.cfFlex (encode s.cfg (.cxFlex cfId rs1 rs2)) cfId rs1 rs2)

/-- `cx_flex25` (R146): the same instruction, its fields cut out of the 25 bits. -/
def execCxFlex25 (custom : BitVec 25) (s : State) : Host.Outcome State Fault Refusal :=
  .next (s.cfFlex (encode s.cfg (.cxFlex25 custom)) (flexCfId custom) (flexRs1 custom) (flexRs2 custom))

/-- A custom-3 word (R147): never a request; BUILTIN, illegal-instruction or `IV` (R201). DESIGN CHOICE
(notes/assumptions/25.md): it has no destination to zero under versions 2 to 7, on a CPU with a BUILTIN too. -/
def execCustom3 (raw : BitVec 25) (s : State) : Host.Outcome State Fault Refusal :=
  .next (s.customOp .cf3 (encode s.cfg (.custom3 raw)) (.cf 0) 0 0 none)

/-- `cx_read_status` (R281, R283). -/
def execCxReadStatus (rd rs1 rs2 : Reg) (s : State) : Host.Outcome State Fault Refusal :=
  .next (s.cfReg (encode s.cfg (.cxReadStatus rd rs1 rs2)) s.cfg.cfReadStatus rd rs1 rs2)

/-- `cx_write_status` (R281, R284). -/
def execCxWriteStatus (rd rs1 rs2 : Reg) (s : State) : Host.Outcome State Fault Refusal :=
  .next (s.cfReg (encode s.cfg (.cxWriteStatus rd rs1 rs2)) s.cfg.cfWriteStatus rd rs1 rs2)

/-- `cx_read_state` (R281, R285). -/
def execCxReadState (rd rs1 rs2 : Reg) (s : State) : Host.Outcome State Fault Refusal :=
  .next (s.cfReg (encode s.cfg (.cxReadState rd rs1 rs2)) s.cfg.cfReadState rd rs1 rs2)

/-- `cx_write_state` (R281, R286). -/
def execCxWriteState (rd rs1 rs2 : Reg) (s : State) : Host.Outcome State Fault Refusal :=
  .next (s.cfReg (encode s.cfg (.cxWriteState rd rs1 rs2)) s.cfg.cfWriteState rd rs1 rs2)

end Sys2Proof.Machine
end

