-- ==== Sys2Proof/Machine/LoadStore.lean ====
section
/-! DEFINITION. Loads and stores (spec/45_host_base_subset.md R311 to R314, R318, R324). -/

namespace Sys2Proof.Machine

/-- `a` is a multiple of `n`, for `n` = 4 or 8 (R318). -/
def aligned (a : Word) (n : Nat) : Bool := a.toNat % n == 0

/-- A load of `n` bytes from `a` (R311, R318): misaligned, refused, or `value` to `x[rd]`. -/
def State.loadTo (s : State) (rd : Reg) (a : Word) (n : Nat) (value : Word) : State :=
  if !aligned a n then s.takeTrap .loadMisaligned a
  else match memCheck s.cfg s.priv a n .load with
    | .allowed => (s.setX rd value).advance
    | .accessFault => s.takeTrap (loadFaultCause .accessFault) a
    | .pageFault => s.takeTrap (loadFaultCause .pageFault) a

/-- A store of `n` bytes to `a` (R313, R318): misaligned, refused, or the state `stored`. -/
def State.storeTo (s : State) (a : Word) (n : Nat) (stored : State) : State :=
  if !aligned a n then s.takeTrap .storeMisaligned a
  else match memCheck s.cfg s.priv a n .store with
    | .allowed => stored.advance
    | .accessFault => s.takeTrap .storeAccess a
    | .pageFault => s.takeTrap .storeAccess a

/-- `LW` (R311): the word is sign-extended. -/
def execLw (rd rs1 : Reg) (imm : BitVec 12) (s : State) : Host.Outcome State Fault Refusal :=
  .next (s.loadTo rd (s.effAddr rs1 imm) 4 (sextX s.cfg.xlen (s.read32 (s.effAddr rs1 imm))))

/-- `LD` (R312): XLEN = 64 only. -/
def execLd (rd rs1 : Reg) (imm : BitVec 12) (s : State) : Host.Outcome State Fault Refusal :=
  .next (match s.cfg.xlen with
    | .rv32 => s.illegal (encode s.cfg (.ld rd rs1 imm))
    | .rv64 => s.loadTo rd (s.effAddr rs1 imm) 8 (s.read64 (s.effAddr rs1 imm)))

/-- `SW` (R313). -/
def execSw (rs1 rs2 : Reg) (imm : BitVec 12) (s : State) : Host.Outcome State Fault Refusal :=
  .next (s.storeTo (s.effAddr rs1 imm) 4 (s.write32 (s.effAddr rs1 imm) ((s.xr rs2).setWidth 32)))

/-- `SD` (R314): XLEN = 64 only. -/
def execSd (rs1 rs2 : Reg) (imm : BitVec 12) (s : State) : Host.Outcome State Fault Refusal :=
  .next (match s.cfg.xlen with
    | .rv32 => s.illegal (encode s.cfg (.sd rs1 rs2 imm))
    | .rv64 => s.storeTo (s.effAddr rs1 imm) 8 (s.write64 (s.effAddr rs1 imm) (s.xr rs2)))

end Sys2Proof.Machine
end

