-- ==== Sys2Proof/Machine/System.lean ====
section
/-! DEFINITION. `ecall` and `mret` (spec/45_host_base_subset.md R319, R320). -/

namespace Sys2Proof.Machine

/-- `ECALL` (R319): takes the environment-call exception of the level, with `mtval` = 0. -/
def execEcall (s : State) : Host.Outcome State Fault Refusal :=
  .next (s.takeTrap (ecallCause s.priv) 0)

/-- `MRET` (R320): illegal below machine level. -/
def execMret (s : State) : Host.Outcome State Fault Refusal :=
  .next (if s.priv = .machine then s.returnFromTrap else s.illegal (encode s.cfg .mret))

end Sys2Proof.Machine
end

