-- ==== Sys2Proof/Machine/Dispatch.lean ====
section
/-! DEFINITION. One arm per instruction. -/

namespace Sys2Proof.Machine

def exec (i : Instr) (s : State) : Host.Outcome State Fault Refusal :=
  match i with
  | .cxReg cfId rd rs1 rs2 => Sys2Proof.Machine.execCxReg cfId rd rs1 rs2 s
  | .cxImm cfId rd rs1 imm => Sys2Proof.Machine.execCxImm cfId rd rs1 imm s
  | .cxFlex cfId rs1 rs2 => Sys2Proof.Machine.execCxFlex cfId rs1 rs2 s
  | .cxFlex25 custom => Sys2Proof.Machine.execCxFlex25 custom s
  | .custom3 raw => Sys2Proof.Machine.execCustom3 raw s
  | .cxReadStatus rd rs1 rs2 => Sys2Proof.Machine.execCxReadStatus rd rs1 rs2 s
  | .cxWriteStatus rd rs1 rs2 => Sys2Proof.Machine.execCxWriteStatus rd rs1 rs2 s
  | .cxReadState rd rs1 rs2 => Sys2Proof.Machine.execCxReadState rd rs1 rs2 s
  | .cxWriteState rd rs1 rs2 => Sys2Proof.Machine.execCxWriteState rd rs1 rs2 s
  | .csrrw rd csr rs1 => Sys2Proof.Machine.execCsrrw rd csr rs1 s
  | .csrrs rd csr rs1 => Sys2Proof.Machine.execCsrrs rd csr rs1 s
  | .csrrc rd csr rs1 => Sys2Proof.Machine.execCsrrc rd csr rs1 s
  | .csrrwi rd csr uimm => Sys2Proof.Machine.execCsrrwi rd csr uimm s
  | .csrrsi rd csr uimm => Sys2Proof.Machine.execCsrrsi rd csr uimm s
  | .csrrci rd csr uimm => Sys2Proof.Machine.execCsrrci rd csr uimm s
  | .lui rd imm20 => Sys2Proof.Machine.execLui rd imm20 s
  | .addi rd rs1 imm => Sys2Proof.Machine.execAddi rd rs1 imm s
  | .add rd rs1 rs2 => Sys2Proof.Machine.execAdd rd rs1 rs2 s
  | .andi rd rs1 imm => Sys2Proof.Machine.execAndi rd rs1 imm s
  | .slli rd rs1 shamt => Sys2Proof.Machine.execSlli rd rs1 shamt s
  | .srli rd rs1 shamt => Sys2Proof.Machine.execSrli rd rs1 shamt s
  | .lw rd rs1 imm => Sys2Proof.Machine.execLw rd rs1 imm s
  | .ld rd rs1 imm => Sys2Proof.Machine.execLd rd rs1 imm s
  | .sw rs1 rs2 imm => Sys2Proof.Machine.execSw rs1 rs2 imm s
  | .sd rs1 rs2 imm => Sys2Proof.Machine.execSd rs1 rs2 imm s
  | .beq rs1 rs2 off => Sys2Proof.Machine.execBeq rs1 rs2 off s
  | .bne rs1 rs2 off => Sys2Proof.Machine.execBne rs1 rs2 off s
  | .jal rd off => Sys2Proof.Machine.execJal rd off s
  | .ecall => Sys2Proof.Machine.execEcall s
  | .mret => Sys2Proof.Machine.execMret s

end Sys2Proof.Machine
end

