-- ==== Sys2Proof/Machine/Fetch.lean ====
section
/-! DEFINITION. Fetching the bytes of the next instruction (spec/45_host_base_subset.md R301). -/

namespace Sys2Proof.Machine

/-- Byte `k` of the word at `pc`, read from the program text (R98, R301; notes/assumptions/11.md). -/
def State.textByte (s : State) (k : Nat) : BitVec 8 := Memory.read s.text (s.addrKey s.pc k)

/-- The four bytes at `pc`, lowest address first (R86, R301). -/
def State.fetchBytes (s : State) : List (BitVec 8) := [s.textByte 0, s.textByte 1, s.textByte 2, s.textByte 3]

/-- The word at `pc`, little-endian (R86, R301). -/
def State.fetchWord (s : State) : Insn := s.textByte 3 ++ s.textByte 2 ++ s.textByte 1 ++ s.textByte 0

/-- The fetch at `pc` is allowed at the current level (R301, R324). -/
def State.fetchAllowed (s : State) : Bool := memCheck s.cfg s.priv s.pc 4 .fetch == .allowed

/-- The state in whose program text the word stands at `pc`. -/
def State.placeWord (s : State) (w : Insn) : State :=
  { s with text := ({ s with mem := s.text }.write32 s.pc w).mem }

/-- A refused fetch: instruction access fault, `mepc` = `pc` (R301). -/
def State.fetchFault (s : State) : State := s.trapFreeTval .instrAccess

/-- A word that matches no rule raises illegal-instruction (R301, R322). -/
def State.undecoded (s : State) : State := s.illegal s.fetchWord

end Sys2Proof.Machine
end

