-- ==== Sys2Proof/Machine/Step.lean ====
section
/-! DEFINITION. One step: the resets in progress advance (R249), then the hart fetches, decodes and executes
one instruction (R15, R301). -/

namespace Sys2Proof.Machine

/-- The hart's part of a step: fetch, decode, execute (R301). -/
def State.hartStep (s : State) : Host.Outcome State Fault Refusal :=
  if s.fetchAllowed then
    match decode s.cfg s.fetchBytes with
    | .ok i => exec i s
    | .error _ => .next s.undecoded
  else .next s.fetchFault

/-- One step of the system. -/
def step (s : State) : Host.Outcome State Fault Refusal := s.tick.hartStep

/-- `s` with the instruction word `w`, of `nbits` bits, stored where the next step fetches: in the program text, at
`pc`. -/
def State.withFetchWord (s : State) (nbits w : Nat) : State :=
  s.placeWord (BitVec.ofNat 32 (w % 2 ^ nbits))

end Sys2Proof.Machine
end

