-- ==== Sys2Proof/Safety.lean ====
section
/-! DEFINITION. What statements are made in terms of: a well-formed configuration with the laws of its extensions, the
invariant of a state, what an instruction leaves unchanged, the forms of the instructions. -/

namespace Sys2Proof

open Sys2Proof.Machine

/-! ### Well-formed configurations -/

/-- Load words `i, i+1, …` of the save data from a list; a word at or above the size is dropped (R255). -/
def ExtConfig.loadWords (cx : ExtConfig) (st : CxState) (i : Nat) : List Word → CxState
  | [] => st
  | w :: ws => cx.loadWords (if i < (cx.size st).toNat then cx.loadWord st i w else st) (i + 1) ws

/-- The save data of a state: its XLEN-bit words in order (R254). -/
def ExtConfig.blob (x : Xlen) (cx : ExtConfig) (st : CxState) : List Word :=
  (List.range (cx.size st).toNat).map fun i => norm x (cx.saveWord st i)

/-- R8: what the functions of a stateful extension leave is a state of the extension. -/
structure ExtConfig.StateLaws (cx : ExtConfig) : Prop where
  holds : ∀ st, cx.holds (cx.holds st) = cx.holds st
  initial : cx.holds cx.initial = cx.initial
  cf : ∀ st, cx.holds st = st → ∀ f ∈ cx.validCfs, ∀ d0 d1 insn err,
    cx.holds (cx.cf f d0 d1 insn st err).st = (cx.cf f d0 d1 insn st err).st
  csr : ∀ st, cx.holds st = st → ∀ a ∈ cx.validCsrs, ∀ fn d0 err,
    cx.holds (cx.csr a fn d0 st err).st = (cx.csr a fn d0 st err).st
  sizeWrite : ∀ st, cx.holds st = st → ∀ v, cx.holds (cx.sizeWrite st v) = cx.sizeWrite st v
  loadWord : ∀ st, cx.holds st = st → ∀ i, i < (cx.size st).toNat → ∀ w,
    cx.holds (cx.loadWord st i w) = cx.loadWord st i w

/-- The laws of R5, R7, R8, R255 and R261 on a configured extension. DESIGN CHOICE (notes/assumptions/26.md): of the
addresses of the mandatory CX CSRs, R51 and R263 differ on whether a stateless extension may have one of its own;
here it may (`csrs`). DESIGN CHOICE (notes/assumptions/29.md): of the four standard CF_IDs, R281 and R280 with R206
differ on whether a stateless extension may have a function of its own at one of them; here it may (`cfs`). -/
structure ExtConfig.WF (cfg : Config) (cx : ExtConfig) : Prop where
  contexts : cx.nContexts ≤ 256
  errorW : cx.errorW ≤ xlenBits cfg.xlen
  indexW : cx.indexW ≤ 16
  cfs : cx.stateful = true → ∀ f ∈ cx.validCfs, stdFn? cfg f = none
  csrs : ∀ a ∈ cx.validCsrs, isCustomCsr a = true ∧ (cx.stateful = true → stdCsr? a = none)
  states : cx.stateful = true → cx.StateLaws
  reload : cx.stateful = true → ∀ st st', cx.holds st = st → cx.holds st' = st' → cx.size st' = cx.size st →
    cx.loadWords st' 0 (cx.blob cfg.xlen st) = st

/-- Two results agree: the same data and status, and states and errors that `R` relates. -/
def ExtConfig.Agree (x : Xlen) (R : CxState × Word → CxState × Word → Prop) (cx cx' : ExtConfig)
    (r r' : CxResult) : Prop :=
  norm x r.data = norm x r'.data ∧ r.status = r'.status ∧
    R (r.st, cx.errBits x r.err) (r'.st, cx'.errBits x r'.err)

/-- Two configured extensions that cannot be told apart by the functions and the CX CSRs of their own that both have:
what "cx_guid determines cf up to the contract of the extension" (R9 (d)) asks of two CXUs of one extension. The
answer `OP` or no flag of an access to a read-only CX CSR is the extension's (R186), so it is part of this. Their
states may be of different types, and the sizes and save data of the states may differ. DESIGN CHOICE
(notes/assumptions/28.md): the spec does not say what the contract is. -/
structure ExtConfig.SameExtension (x : Xlen) (cx cx' : ExtConfig) : Prop where
  stateful : cx.stateful = cx'.stateful
  pureCf : cx.stateful = false → ∀ f ∈ cx.validCfs, f ∈ cx'.validCfs → ∀ d0 d1 insn,
    norm x (cx.pureCf f d0 d1 insn).1 = norm x (cx'.pureCf f d0 d1 insn).1 ∧
      (cx.pureCf f d0 d1 insn).2 = (cx'.pureCf f d0 d1 insn).2
  constCsr : cx.stateful = false → ∀ a ∈ cx.validCsrs, a ∈ cx'.validCsrs → ∀ fn d0,
    norm x (cx.constCsr a fn d0).1 = norm x (cx'.constCsr a fn d0).1 ∧
      (cx.constCsr a fn d0).2 = (cx'.constCsr a fn d0).2
  contexts : cx.stateful = true → ∃ R : CxState × Word → CxState × Word → Prop,
    R (cx.initial, 0) (cx'.initial, 0) ∧
    ∀ p q, R p q →
      (∀ f ∈ cx.validCfs, f ∈ cx'.validCfs → ∀ d0 d1 insn,
        ExtConfig.Agree x R cx cx' (cx.cf f d0 d1 insn p.1 p.2) (cx'.cf f d0 d1 insn q.1 q.2)) ∧
      (∀ a ∈ cx.validCsrs, a ∈ cx'.validCsrs → ∀ fn d0,
        ExtConfig.Agree x R cx cx' (cx.csr a fn d0 p.1 p.2) (cx'.csr a fn d0 q.1 q.2))

/-- `base` can hold a selector table (R81, R324): user level may neither load nor store its 4096 bytes, and the implied
load of a user-level write of `cx_index` may load each of its entries. -/
structure Config.ProtectsTable (cfg : Config) (base : Word) : Prop where
  table : tableBits cfg base = base
  user : ∀ kind, kind ≠ .fetch → ∀ a : Word, base ≤ a → a.toNat < base.toNat + 4096 → ∀ n, 0 < n →
    memCheck cfg .user a n kind ≠ .allowed
  implied : ∀ i : BitVec 10, memCheck cfg (cxidxPriv cfg .user) (base + (i ++ 0#2).setWidth 64) 4 .load = .allowed

/-- A configuration the spec allows (R4, R8, R9 (d), R58, R262, R281, R282, R363). -/
structure Config.WF (cfg : Config) : Prop where
  standardCfs : cfg.standardCfsDistinct = true
  accessControl : cfg.accessControl = true → cfg.modes ≠ .m ∧ ∃ base, cfg.ProtectsTable base
  cxuIds : (cfg.cxus.map Prod.fst).Nodup
  extensions : ∀ e ∈ cfg.cxus, ExtConfig.WF cfg e.2
  identity : ∀ e ∈ cfg.cxus, ∀ e' ∈ cfg.cxus, e.2.cxGuid = e'.2.cxGuid → ExtConfig.SameExtension cfg.xlen e.2 e'.2
  statusWord : ∀ e ∈ cfg.cxus, e.2.stateful = true → ∀ cs size error,
    e.2.errBits cfg.xlen error = error →
      statusUnpack cfg (statusPack cfg cs size error) = (cs, size, error)
  guids : ∀ g ∈ cfg.guidCsrs, inRange g.addr 0xFC0 0xFFF = true ∧ g.word * xlenBits cfg.xlen < 128
  guidAddrs : (cfg.guidCsrs.map GuidCsr.addr).Nodup

namespace Machine

/-- An entry of the context list is a context of a configured stateful extension, and its fields fit their
implemented bits (R47). -/
structure CtxEntryOk (cfg : Config) (e : Nat × Ctx) : Prop where
  key : e.1 < 65536
  configured : ∃ cx, cxuOf cfg (BitVec.ofNat 8 (e.1 / 256)) = some cx ∧ e.1 % 256 < cx.nContexts ∧
    cx.errBits cfg.xlen e.2.error = e.2.error ∧ keepLow16 cx.indexW e.2.index = e.2.index

/-- The invariant of the machine: every register holds a value it can hold, `x[0]` is 0, `pc` is a multiple
of 4, the level is implemented, memory and the program text are in canonical form, every context belongs to the
configuration. -/
structure State.Inv (s : State) : Prop where
  xZero : s.x[0] = 0
  xWidth : ∀ i : Fin 32, norm s.cfg.xlen s.x[i] = s.x[i]
  pcWidth : norm s.cfg.xlen s.pc = s.pc
  pcAligned : clear2 s.pc = s.pc
  level : implemented s.cfg.modes s.priv = true
  selector : selectorBits s.mcxSelector = s.mcxSelector
  status : statusBits s.cxStatus = s.cxStatus
  table : tableBits s.cfg s.mcxTable = s.mcxTable
  index : s.cxIndex &&& 0x3FF#32 = s.cxIndex
  mstatus : ∃ mie mpie mpp, implemented s.cfg.modes mpp = true ∧ s.mstatus = mstatusOf mie mpie mpp
  mtvec : clear2 (norm s.cfg.xlen s.mtvec) = s.mtvec
  mscratch : norm s.cfg.xlen s.mscratch = s.mscratch
  mepc : clear2 (norm s.cfg.xlen s.mepc) = s.mepc
  mcause : keepLow (xlenBits s.cfg.xlen - 1) s.mcause = s.mcause
  mtval : norm s.cfg.xlen s.mtval = s.mtval
  mem : Memory.wf s.mem
  memBound : Memory.below s.mem (2 ^ xlenBits s.cfg.xlen)
  text : Memory.wf s.text
  textBound : Memory.below s.text (2 ^ xlenBits s.cfg.xlen)
  ctxOrder : Cells.sorted s.ctxs
  ctxOk : ∀ e ∈ s.ctxs, CtxEntryOk s.cfg e

/-- The context a stateful extension's operation works on (R47). -/
def State.selectedCtx (s : State) (cx : ExtConfig) : Ctx :=
  s.ctx cx (selCxuId s.mcxSelector) (selStateId s.mcxSelector)

/-- The CXU_ID and STATE_ID that `mcx_selector` names. -/
def State.selected (s : State) : BitVec 8 × BitVec 8 := (selCxuId s.mcxSelector, selStateId s.mcxSelector)

/-! ### What an instruction leaves unchanged -/

/-- The CSRs of the hart (R26, R302). -/
inductive HartCsr where
  | cxIndex
  | cxStatus
  | mcxSelector
  | mcxTable
  | mstatus
  | mtvec
  | mscratch
  | mepc
  | mcause
  | mtval
  deriving DecidableEq, Repr

/-- The content of a CSR of the hart. -/
def State.csr (s : State) : HartCsr → Word
  | .cxIndex => zextX s.cxIndex
  | .cxStatus => zextX s.cxStatus
  | .mcxSelector => zextX s.mcxSelector
  | .mcxTable => s.mcxTable
  | .mstatus => s.mstatus
  | .mtvec => s.mtvec
  | .mscratch => s.mscratch
  | .mepc => s.mepc
  | .mcause => s.mcause
  | .mtval => s.mtval

/-- From `s` to `t` nothing changes but the integer registers `regs`, the CSRs `csrs`, the contexts `ctxs`, the
bytes of memory at the addresses `bytes`, `pc` and the level. -/
structure Unchanged (s t : State) (regs : List Reg) (csrs : List HartCsr)
    (ctxs : List (BitVec 8 × BitVec 8)) (bytes : List Nat) : Prop where
  regs : ∀ j, j ∉ regs → t.xr j = s.xr j
  csrs : ∀ r, r ∉ csrs → t.csr r = s.csr r
  ctxs : ∀ cx c i, (c, i) ∉ ctxs → t.ctx cx c i = s.ctx cx c i
  bytes : ∀ a, a ∉ bytes → Memory.read t.mem a = Memory.read s.mem a
  text : t.text = s.text
  cfg : t.cfg = s.cfg

/-- The instruction at `s` completes at `t`: besides what the lists name, `pc` alone changes, to `pc + 4`
modulo `2^XLEN` (R12, R24). -/
structure Advanced (s t : State) (regs : List Reg) (csrs : List HartCsr)
    (ctxs : List (BitVec 8 × BitVec 8)) (bytes : List Nat) : Prop
    extends Unchanged s t regs csrs ctxs bytes where
  level : t.priv = s.priv
  pc : t.pc = norm s.cfg.xlen (s.pc + 4)

/-- `x[rd]` holds the XLEN-bit value `v`; `x[0]` reads 0 (R12, R22). -/
def State.holds (t : State) (rd : Reg) (v : Word) : Prop :=
  t.xr rd = if rd = 0 then 0 else norm t.cfg.xlen v

/-- The destination register, if there is one, holds the value `v` (R205). -/
def State.destHolds (t : State) (dest : Option Reg) (v : Word) : Prop :=
  ∀ rd, dest = some rd → t.holds rd v

/-- From `s` to `t` an exception is taken (R344): `mtval` receives `tval`, or a value nothing constrains
where the spec states none. -/
structure TrapEntered (s t : State) (code : Word) (tval : Option Word) : Prop where
  mepc : t.mepc = s.pc
  mcause : t.mcause = code
  mtval : ∀ v, tval = some v → t.mtval = norm s.cfg.xlen v
  mstatus : t.mstatus = mstatusOf false (mstatusMie s.mstatus) s.priv
  level : t.priv = .machine
  pc : t.pc = s.mtvec &&& ~~~3#64
  rest : Unchanged s t [] [.mepc, .mcause, .mtval, .mstatus] [] []

/-- What `mtval` receives on an illegal-instruction exception (R343). -/
def State.illegalTval (s : State) (insn : Insn) : Word :=
  match s.cfg.mtvalRule with
  | .insn => insn.setWidth 64
  | .zero => 0

/-! ### The forms of the instructions -/

/-- A CSR instruction with its CSR address, destination, access function and source operand (R161, R165 to R170,
R181). -/
inductive CsrForm (s : State) : Instr → CsrAddr → Reg → CsrFn → Word → Prop where
  | w (rd : Reg) (a : CsrAddr) (rs1 : Reg) : CsrForm s (.csrrw rd a rs1) a rd .write (s.xr rs1)
  | s (rd : Reg) (a : CsrAddr) (rs1 : Reg) :
      CsrForm s (.csrrs rd a rs1) a rd (if rs1 = 0 then .read else .set) (s.xr rs1)
  | c (rd : Reg) (a : CsrAddr) (rs1 : Reg) :
      CsrForm s (.csrrc rd a rs1) a rd (if rs1 = 0 then .read else .clear) (s.xr rs1)
  | wi (rd : Reg) (a : CsrAddr) (uimm : BitVec 5) :
      CsrForm s (.csrrwi rd a uimm) a rd .write (uimm.setWidth 64)
  | si (rd : Reg) (a : CsrAddr) (uimm : BitVec 5) :
      CsrForm s (.csrrsi rd a uimm) a rd (if uimm = 0 then .read else .set) (uimm.setWidth 64)
  | ci (rd : Reg) (a : CsrAddr) (uimm : BitVec 5) :
      CsrForm s (.csrrci rd a uimm) a rd (if uimm = 0 then .read else .clear) (uimm.setWidth 64)

/-- `Check(a, writes)` passes (R164). -/
def csrAllowed (a : CsrAddr) (fn : CsrFn) (p : Priv) : Prop :=
  a.extractLsb' 8 2 ≤ privCode p ∧ ¬(fn ≠ .read ∧ a.extractLsb' 10 2 = 3#2)

/-- The value a CSR holds after an access (R161, R184): unchanged, written, bits set, bits cleared. -/
def accessed (fn : CsrFn) (old src : Word) : Word :=
  match fn with
  | .read => old
  | .write => src
  | .set => old ||| src
  | .clear => old &&& ~~~src

/-- A custom function instruction with its CF_ID, two operands and destination (R112, R113, R143 to R146, R281). -/
inductive CfForm (s : State) : Instr → CfId → Word → Word → Option Reg → Prop where
  | reg (f : CfId) (rd rs1 rs2 : Reg) : CfForm s (.cxReg f rd rs1 rs2) f (s.xr rs1) (s.xr rs2) (some rd)
  | imm (f : BitVec 3) (rd rs1 : Reg) (k : BitVec 12) :
      CfForm s (.cxImm f rd rs1 k) (f.setWidth 10) (s.xr rs1) (norm s.cfg.xlen (k.signExtend 64)) (some rd)
  | flex (f : CfId) (rs1 rs2 : Reg) : CfForm s (.cxFlex f rs1 rs2) f (s.xr rs1) (s.xr rs2) none
  | flex25 (k : BitVec 25) :
      CfForm s (.cxFlex25 k) (k.extractLsb' 18 7 ++ k.extractLsb' 5 3) (s.xr (k.extractLsb' 8 5))
        (s.xr (k.extractLsb' 13 5)) none
  | readStatus (rd rs1 rs2 : Reg) :
      CfForm s (.cxReadStatus rd rs1 rs2) s.cfg.cfReadStatus (s.xr rs1) (s.xr rs2) (some rd)
  | writeStatus (rd rs1 rs2 : Reg) :
      CfForm s (.cxWriteStatus rd rs1 rs2) s.cfg.cfWriteStatus (s.xr rs1) (s.xr rs2) (some rd)
  | readState (rd rs1 rs2 : Reg) :
      CfForm s (.cxReadState rd rs1 rs2) s.cfg.cfReadState (s.xr rs1) (s.xr rs2) (some rd)
  | writeState (rd rs1 rs2 : Reg) :
      CfForm s (.cxWriteState rd rs1 rs2) s.cfg.cfWriteState (s.xr rs1) (s.xr rs2) (some rd)

/-- A custom operation with its destination (R14, R201): a custom function instruction, a custom-3 word, or a
CSR instruction at a custom CSR address that passes the checks of the address. -/
inductive CustomOpForm (s : State) : Instr → Option Reg → Prop where
  | cf {i : Instr} {f : CfId} {d0 d1 : Word} {dest : Option Reg} (h : CfForm s i f d0 d1 dest) :
      CustomOpForm s i dest
  | custom3 (raw : BitVec 25) : CustomOpForm s (.custom3 raw) none
  | csr {i : Instr} {a : CsrAddr} {rd : Reg} {fn : CsrFn} {src : Word} (h : CsrForm s i a rd fn src)
      (ha : isCustomCsr a = true) (hp : csrAllowed a fn s.priv) : CustomOpForm s i (some rd)

/-- Version-1 multiplexing is on and selects the configured extension `cx` with a valid STATE_ID (R202, R203,
R207). -/
structure Selects (s : State) (cx : ExtConfig) : Prop where
  version : selVersion s.mcxSelector = 1
  cxe : selCxe s.mcxSelector = false
  cxu : cxuOf s.cfg (selCxuId s.mcxSelector) = some cx
  state : validState cx (selStateId s.mcxSelector) = true

/-- … and `cx` is stateful and the selected context is neither off nor in reset (R208). -/
structure SelectsActive (s : State) (cx : ExtConfig) : Prop extends Selects s cx where
  stateful : cx.stateful = true
  on : (s.selectedCtx cx).cs ≠ .off
  idle : (s.selectedCtx cx).rst = false

/-- The destination of an operation, as the list of registers it may change. -/
def destRegs (dest : Option Reg) : List Reg := dest.toList

end Machine

end Sys2Proof
end

