-- ==== Sys2Proof/Certificates/Slice0/Obligations.lean ====
section
/-! DEFINITION. The statements for the provers, each a `Prop` that says what the machine does. -/

open Sys2Proof Sys2Proof.Machine

/-! ### Encoding, decoding, the step -/

/-- Every well-formed instruction decodes from its own word, stored byte by byte as the hardware stores it, under
every configuration (R86, R111, R116). No bit of an encoding is dropped. -/
def Obligations.DecodeOfEncode : Prop :=
  ∀ (cfg : Config) (i : Instr), i.wellFormed cfg = true →
    decode cfg (bytesOfWord (encode cfg i)) = .ok i

/-- A word that decodes is the word of the instruction it decodes to: no two words are one instruction. -/
def Obligations.EncodeOfDecode : Prop :=
  ∀ (cfg : Config) (w : Insn) (i : Instr), decodeWord cfg w = .ok i → encode cfg i = w

/-- R116: every custom-0, custom-1 and custom-2 word decodes to a custom function instruction with the fields of
the rule, every custom-3 word to the raw word, and the six CSR instructions by `funct3`. -/
def Obligations.CustomWordsDecode : Prop :=
  ∀ (s : State) (w : Insn),
    (w.extractLsb' 0 7 = 0b0001011#7 → ∃ i, decodeWord s.cfg w = .ok i ∧
      CfForm s i (w.extractLsb' 25 7 ++ w.extractLsb' 12 3) (s.xr (w.extractLsb' 15 5))
        (s.xr (w.extractLsb' 20 5)) (some (w.extractLsb' 7 5))) ∧
    (w.extractLsb' 0 7 = 0b0101011#7 → ∃ i, decodeWord s.cfg w = .ok i ∧
      CfForm s i ((w.extractLsb' 12 3).setWidth 10) (s.xr (w.extractLsb' 15 5))
        (norm s.cfg.xlen ((w.extractLsb' 20 12).signExtend 64)) (some (w.extractLsb' 7 5))) ∧
    (w.extractLsb' 0 7 = 0b1011011#7 → ∃ i, decodeWord s.cfg w = .ok i ∧
      CfForm s i (w.extractLsb' 25 7 ++ w.extractLsb' 12 3) (s.xr (w.extractLsb' 15 5))
        (s.xr (w.extractLsb' 20 5)) none) ∧
    (w.extractLsb' 0 7 = 0b1111011#7 → decodeWord s.cfg w = .ok (.custom3 (w.extractLsb' 7 25))) ∧
    (w.extractLsb' 0 7 = 0b1110011#7 →
      (w.extractLsb' 12 3 = 1#3 → decodeWord s.cfg w =
        .ok (.csrrw (w.extractLsb' 7 5) (w.extractLsb' 20 12) (w.extractLsb' 15 5))) ∧
      (w.extractLsb' 12 3 = 2#3 → decodeWord s.cfg w =
        .ok (.csrrs (w.extractLsb' 7 5) (w.extractLsb' 20 12) (w.extractLsb' 15 5))) ∧
      (w.extractLsb' 12 3 = 3#3 → decodeWord s.cfg w =
        .ok (.csrrc (w.extractLsb' 7 5) (w.extractLsb' 20 12) (w.extractLsb' 15 5))) ∧
      (w.extractLsb' 12 3 = 5#3 → decodeWord s.cfg w =
        .ok (.csrrwi (w.extractLsb' 7 5) (w.extractLsb' 20 12) (w.extractLsb' 15 5))) ∧
      (w.extractLsb' 12 3 = 6#3 → decodeWord s.cfg w =
        .ok (.csrrsi (w.extractLsb' 7 5) (w.extractLsb' 20 12) (w.extractLsb' 15 5))) ∧
      (w.extractLsb' 12 3 = 7#3 → decodeWord s.cfg w =
        .ok (.csrrci (w.extractLsb' 7 5) (w.extractLsb' 20 12) (w.extractLsb' 15 5))))

/-- Words written out in the worked examples of the spec decode to the instructions they stand for. -/
def Obligations.ListedWordsDecode : Prop :=
  decodeTableWord 32 0x5473528B = some (.cxReg 0x155 5 6 7) ∧
  decodeTableWord 32 0x800586AB = some (.cxImm 0 13 11 0x800) ∧
  decodeTableWord 32 0x02C5905B = some (.cxFlex 9 11 12) ∧
  decodeTableWord 32 0x91A2B3DB = some (.cxFlex25 0x1234567) ∧
  decodeTableWord 32 0xFEA5C00B = some (.cxWriteState 0 11 10) ∧
  decodeTableWord 32 0x8015B573 = some (.csrrc 10 0x801 11) ∧
  decodeTableWord 32 0x00A42823 = some (.sw 8 10 16) ∧
  decodeTableWord 32 0xFE0298E3 = some (.bne 5 0 0xFF8)

/-- A step whose fetch is allowed and whose word decodes runs the instruction, well-formed or not, on the state in which
the resets in progress have advanced by one step (R249, R301); these change contexts alone. The bytes fetched are
those of the program text at `pc` (R98; notes/assumptions/11.md). -/
def Obligations.StepRunsDecoded : Prop :=
  ∀ (s : State) (i : Instr), s.fetchAllowed = true → decode s.cfg s.fetchBytes = .ok i →
    step s = exec i s.tick ∧ s.tick.toHart = s.toHart ∧ s.tick.mem = s.mem ∧ s.tick.text = s.text ∧
      s.tick.cfg = s.cfg ∧ s.tick.draws = s.draws ∧
      s.fetchBytes = (List.range 4).map fun k => Memory.read s.text (norm s.cfg.xlen (s.pc + BitVec.ofNat 64 k)).toNat

/-- A word that decodes to nothing raises illegal-instruction with the word; a refused fetch raises instruction
access fault, cause 1, for which the spec states no `mtval` (R301, R322; notes/assumptions/7.md). -/
def Obligations.FetchExceptions : Prop :=
  ∀ (s : State),
    (∀ e, s.fetchAllowed = true → decode s.cfg s.fetchBytes = .error e →
      ∃ t, step s = .next t ∧ TrapEntered s.tick t 2 (some (s.illegalTval s.fetchWord))) ∧
    (s.fetchAllowed = false → ∃ t, step s = .next t ∧ TrapEntered s.tick t 1 none)

/-! ### The invariant, reset -/

/-- Every step keeps the invariant: registers hold values of their width and legal values of their fields, `x[0]`
is 0, `pc` is a multiple of 4, the level is implemented, memory and the program text keep their canonical form
inside the address space, the contexts stay those of the configuration. -/
def Obligations.StepKeepsInvariant : Prop :=
  ∀ (s t : State), s.Inv → step s = .next t → t.Inv

/-- The state after reset in the reference configuration meets the invariant, and the configuration is one the spec
allows. -/
def Obligations.ResetMeetsInvariant : Prop := State.reset.Inv ∧ State.reset.cfg.WF

/-- For every allowed configuration and every value of what the spec leaves open at reset, the state after reset
meets the invariant. What is left open is taken after R302, not D32: `MPP` is, `mcause` is not
(DESIGN CHOICE, notes/assumptions/30.md). -/
def Obligations.EveryResetMeetsInvariant : Prop :=
  ∀ (p : ResetParams), p.cfg.WF → (State.resetOf p).Inv

/-- No step changes the configuration or the program text (R15, R21, R98). -/
def Obligations.StepKeepsConfiguration : Prop :=
  ∀ (s t : State), step s = .next t → t.cfg = s.cfg ∧ t.text = s.text

/-- R63, and the rest of the hart that R65 and R302 fix: whatever is left open at reset, the CX-ISA CSRs are zero,
the level is machine, `pc` is the reset address, `mcause` is 0 and interrupts are off. That `mcause` is 0, after R302
and not D32, is the model's choice (DESIGN CHOICE, notes/assumptions/30.md). -/
def Obligations.ResetOfTheHart : Prop :=
  ∀ (p : ResetParams),
    (State.resetOf p).mcxSelector = 0 ∧ (State.resetOf p).cxStatus = 0 ∧ (State.resetOf p).mcxTable = 0 ∧
    (State.resetOf p).cxIndex = 0 ∧ (State.resetOf p).priv = .machine ∧
    (norm p.cfg.xlen p.pc = p.pc → p.pc &&& 3#64 = 0 → (State.resetOf p).pc = p.pc) ∧
    (State.resetOf p).mcause = 0 ∧
    mstatusMie (State.resetOf p).mstatus = false ∧ mstatusMpie (State.resetOf p).mstatus = false ∧
    (State.resetOf p).cfg = p.cfg

/-- R64: after system reset each state context of every configured stateful extension is in the `initial` state. -/
def Obligations.ResetOfTheContexts : Prop :=
  ∀ (p : ResetParams) (cx : ExtConfig) (c i : BitVec 8), p.cfg.WF → cxuOf p.cfg c = some cx →
    i.toNat < cx.nContexts →
    ((State.resetOf p).ctx cx c i).cs = .initial ∧ ((State.resetOf p).ctx cx c i).st = cx.initial ∧
    ((State.resetOf p).ctx cx c i).rst = false ∧ ((State.resetOf p).ctx cx c i).error = 0 ∧
    ((State.resetOf p).ctx cx c i).index = 0 ∧ ((State.resetOf p).ctx cx c i).incr = false

/-! ### Integer computational instructions -/

/-- R305: `lui`. -/
def Obligations.LuiResult : Prop :=
  ∀ (s : State) (rd : Reg) (imm20 : BitVec 20),
    encode s.cfg (.lui rd imm20) = imm20 ++ rd ++ 0b0110111#7 ∧
    ∃ t, exec (.lui rd imm20) s = .next t ∧ Advanced s t [rd] [] [] [] ∧
      t.holds rd ((imm20 ++ 0#12).signExtend 64)

/-- R306 and R308: `addi` and `andi`. -/
def Obligations.ImmediateResults : Prop :=
  ∀ (s : State) (rd rs1 : Reg) (imm : BitVec 12),
    (encode s.cfg (.addi rd rs1 imm) = imm ++ rs1 ++ 0b000#3 ++ rd ++ 0b0010011#7 ∧
      ∃ t, exec (.addi rd rs1 imm) s = .next t ∧ Advanced s t [rd] [] [] [] ∧
        t.holds rd (s.xr rs1 + imm.signExtend 64)) ∧
    (encode s.cfg (.andi rd rs1 imm) = imm ++ rs1 ++ 0b111#3 ++ rd ++ 0b0010011#7 ∧
      ∃ t, exec (.andi rd rs1 imm) s = .next t ∧ Advanced s t [rd] [] [] [] ∧
        t.holds rd (s.xr rs1 &&& imm.signExtend 64))

/-- R307: `add`. -/
def Obligations.AddResult : Prop :=
  ∀ (s : State) (rd rs1 rs2 : Reg),
    encode s.cfg (.add rd rs1 rs2) = 0b0000000#7 ++ rs2 ++ rs1 ++ 0b000#3 ++ rd ++ 0b0110011#7 ∧
    ∃ t, exec (.add rd rs1 rs2) s = .next t ∧ Advanced s t [rd] [] [] [] ∧
      t.holds rd (s.xr rs1 + s.xr rs2)

/-- R309 and R310: `slli` and `srli`; a shift amount of 32 or more is illegal where XLEN = 32. -/
def Obligations.ShiftResults : Prop :=
  ∀ (s : State) (rd rs1 : Reg) (shamt : BitVec 6),
    (encode s.cfg (.slli rd rs1 shamt) = 0b000000#6 ++ shamt ++ rs1 ++ 0b001#3 ++ rd ++ 0b0010011#7) ∧
    (encode s.cfg (.srli rd rs1 shamt) = 0b000000#6 ++ shamt ++ rs1 ++ 0b101#3 ++ rd ++ 0b0010011#7) ∧
    (shamt.toNat < xlenBits s.cfg.xlen →
      (∃ t, exec (.slli rd rs1 shamt) s = .next t ∧ Advanced s t [rd] [] [] [] ∧
        t.holds rd (s.xr rs1 <<< shamt.toNat)) ∧
      (∃ t, exec (.srli rd rs1 shamt) s = .next t ∧ Advanced s t [rd] [] [] [] ∧
        t.holds rd (s.xr rs1 >>> shamt.toNat))) ∧
    (xlenBits s.cfg.xlen ≤ shamt.toNat →
      (∃ t, exec (.slli rd rs1 shamt) s = .next t ∧
        TrapEntered s t 2 (some (s.illegalTval (encode s.cfg (.slli rd rs1 shamt))))) ∧
      (∃ t, exec (.srli rd rs1 shamt) s = .next t ∧
        TrapEntered s t 2 (some (s.illegalTval (encode s.cfg (.srli rd rs1 shamt))))))

/-! ### Loads and stores -/

/-- R311 and R312: an aligned, allowed `lw` or `ld` loads the bytes at its address, lowest address in the lowest bits;
`lw` sign-extends; `ld` where XLEN = 64. -/
def Obligations.LoadResults : Prop :=
  ∀ (s : State) (rd rs1 : Reg) (imm : BitVec 12),
    s.effAddr rs1 imm = norm s.cfg.xlen (s.xr rs1 + imm.signExtend 64) ∧
    ((s.effAddr rs1 imm).toNat % 4 = 0 → memCheck s.cfg s.priv (s.effAddr rs1 imm) 4 .load = .allowed →
      ∃ t, exec (.lw rd rs1 imm) s = .next t ∧ Advanced s t [rd] [] [] [] ∧
        t.holds rd ((Memory.read s.mem ((s.effAddr rs1 imm).toNat + 3) ++
          Memory.read s.mem ((s.effAddr rs1 imm).toNat + 2) ++
          Memory.read s.mem ((s.effAddr rs1 imm).toNat + 1) ++
          Memory.read s.mem ((s.effAddr rs1 imm).toNat)).signExtend 64)) ∧
    (s.cfg.xlen = .rv64 → (s.effAddr rs1 imm).toNat % 8 = 0 →
      memCheck s.cfg s.priv (s.effAddr rs1 imm) 8 .load = .allowed →
      ∃ t, exec (.ld rd rs1 imm) s = .next t ∧ Advanced s t [rd] [] [] [] ∧
        (rd ≠ 0 → ∀ k, k < 8 → (t.xr rd).extractLsb' (8 * k) 8 =
          Memory.read s.mem ((s.effAddr rs1 imm).toNat + k)))

/-- R313 and R314: an aligned, allowed `sw` or `sd` stores the low bytes of `x[rs2]` at its address, lowest byte at
the lowest address, and every other byte of memory is as before; `sd` where XLEN = 64. -/
def Obligations.StoreResults : Prop :=
  ∀ (s : State) (rs1 rs2 : Reg) (imm : BitVec 12),
    s.effAddr rs1 imm = norm s.cfg.xlen (s.xr rs1 + imm.signExtend 64) ∧
    ((s.effAddr rs1 imm).toNat % 4 = 0 → memCheck s.cfg s.priv (s.effAddr rs1 imm) 4 .store = .allowed →
      ∃ t, exec (.sw rs1 rs2 imm) s = .next t ∧
        Advanced s t [] [] [] ((List.range 4).map ((s.effAddr rs1 imm).toNat + ·)) ∧
        ∀ k, k < 4 → Memory.read t.mem ((s.effAddr rs1 imm).toNat + k) = (s.xr rs2).extractLsb' (8 * k) 8) ∧
    (s.cfg.xlen = .rv64 → (s.effAddr rs1 imm).toNat % 8 = 0 →
      memCheck s.cfg s.priv (s.effAddr rs1 imm) 8 .store = .allowed →
      ∃ t, exec (.sd rs1 rs2 imm) s = .next t ∧
        Advanced s t [] [] [] ((List.range 8).map ((s.effAddr rs1 imm).toNat + ·)) ∧
        ∀ k, k < 8 → Memory.read t.mem ((s.effAddr rs1 imm).toNat + k) = (s.xr rs2).extractLsb' (8 * k) 8)

/-- R318 and the exceptions of R311 to R314: a misaligned access raises the misaligned exception whatever protection
says, a refused one the access fault (13 for a load a paging host refuses, notes/assumptions/12.md), with the address
in `mtval`; `ld` and `sd` are illegal where XLEN = 32. Nothing is loaded or stored. -/
def Obligations.LoadStoreExceptions : Prop :=
  ∀ (s : State) (r rs1 : Reg) (imm : BitVec 12) (v : MemVerdict),
    ((s.effAddr rs1 imm).toNat % 4 ≠ 0 →
      (∃ t, exec (.lw r rs1 imm) s = .next t ∧ TrapEntered s t 4 (some (s.effAddr rs1 imm))) ∧
      (∃ t, exec (.sw rs1 r imm) s = .next t ∧ TrapEntered s t 6 (some (s.effAddr rs1 imm)))) ∧
    ((s.effAddr rs1 imm).toNat % 4 = 0 → v ≠ .allowed →
      (memCheck s.cfg s.priv (s.effAddr rs1 imm) 4 .load = v →
        ∃ t, exec (.lw r rs1 imm) s = .next t ∧
          TrapEntered s t (if v = .pageFault then 13 else 5) (some (s.effAddr rs1 imm))) ∧
      (memCheck s.cfg s.priv (s.effAddr rs1 imm) 4 .store = v →
        ∃ t, exec (.sw rs1 r imm) s = .next t ∧ TrapEntered s t 7 (some (s.effAddr rs1 imm)))) ∧
    (s.cfg.xlen = .rv64 → (s.effAddr rs1 imm).toNat % 8 ≠ 0 →
      (∃ t, exec (.ld r rs1 imm) s = .next t ∧ TrapEntered s t 4 (some (s.effAddr rs1 imm))) ∧
      (∃ t, exec (.sd rs1 r imm) s = .next t ∧ TrapEntered s t 6 (some (s.effAddr rs1 imm)))) ∧
    (s.cfg.xlen = .rv64 → (s.effAddr rs1 imm).toNat % 8 = 0 → v ≠ .allowed →
      (memCheck s.cfg s.priv (s.effAddr rs1 imm) 8 .load = v →
        ∃ t, exec (.ld r rs1 imm) s = .next t ∧
          TrapEntered s t (if v = .pageFault then 13 else 5) (some (s.effAddr rs1 imm))) ∧
      (memCheck s.cfg s.priv (s.effAddr rs1 imm) 8 .store = v →
        ∃ t, exec (.sd rs1 r imm) s = .next t ∧ TrapEntered s t 7 (some (s.effAddr rs1 imm)))) ∧
    (s.cfg.xlen = .rv32 →
      (∃ t, exec (.ld r rs1 imm) s = .next t ∧
        TrapEntered s t 2 (some (s.illegalTval (encode s.cfg (.ld r rs1 imm))))) ∧
      (∃ t, exec (.sd rs1 r imm) s = .next t ∧
        TrapEntered s t 2 (some (s.illegalTval (encode s.cfg (.sd rs1 r imm))))))

/-! ### Control transfer and system instructions -/

/-- R315 and R316: `beq` and `bne`. A taken branch to a multiple of 4 changes `pc` alone; a taken branch elsewhere
raises instruction address misaligned; a branch not taken goes on and never traps. -/
def Obligations.BranchResults : Prop :=
  ∀ (s : State) (rs1 rs2 : Reg) (off : BitVec 12) (i : Instr) (taken : Prop),
    (i = .beq rs1 rs2 off ∧ (taken ↔ s.xr rs1 = s.xr rs2)) ∨
      (i = .bne rs1 rs2 off ∧ (taken ↔ s.xr rs1 ≠ s.xr rs2)) →
    (¬taken → ∃ t, exec i s = .next t ∧ Advanced s t [] [] [] []) ∧
    (taken → norm s.cfg.xlen (s.pc + (off ++ 0#1).signExtend 64) &&& 3#64 = 0 →
      ∃ t, exec i s = .next t ∧ Unchanged s t [] [] [] [] ∧ t.priv = s.priv ∧
        t.pc = norm s.cfg.xlen (s.pc + (off ++ 0#1).signExtend 64)) ∧
    (taken → norm s.cfg.xlen (s.pc + (off ++ 0#1).signExtend 64) &&& 3#64 ≠ 0 →
      ∃ t, exec i s = .next t ∧ TrapEntered s t 0 none)

/-- R317: `jal` links `pc + 4` and jumps, or raises instruction address misaligned and links nothing. -/
def Obligations.JalResult : Prop :=
  ∀ (s : State) (rd : Reg) (off : BitVec 20),
    encode s.cfg (.jal rd off) = off.extractLsb' 19 1 ++ off.extractLsb' 0 10 ++ off.extractLsb' 10 1 ++
      off.extractLsb' 11 8 ++ rd ++ 0b1101111#7 ∧
    (norm s.cfg.xlen (s.pc + (off ++ 0#1).signExtend 64) &&& 3#64 = 0 →
      ∃ t, exec (.jal rd off) s = .next t ∧ Unchanged s t [rd] [] [] [] ∧ t.priv = s.priv ∧
        t.holds rd (s.pc + 4) ∧ t.pc = norm s.cfg.xlen (s.pc + (off ++ 0#1).signExtend 64)) ∧
    (norm s.cfg.xlen (s.pc + (off ++ 0#1).signExtend 64) &&& 3#64 ≠ 0 →
      ∃ t, exec (.jal rd off) s = .next t ∧ TrapEntered s t 0 none)

/-- R319: `ecall` takes the environment-call exception of its level, with `mtval` = 0. -/
def Obligations.EcallResult : Prop :=
  ∀ (s : State), encode s.cfg .ecall = 0x00000073#32 ∧
    ∃ t, exec .ecall s = .next t ∧
      TrapEntered s t (match s.priv with | .user => 8 | .supervisor => 9 | .machine => 11) (some 0)

/-- R320: `mret` at machine level returns to the level in `MPP` and to `mepc`; below it raises illegal-instruction. -/
def Obligations.MretResult : Prop :=
  ∀ (s : State), encode s.cfg .mret = 0x30200073#32 ∧
    (∀ p, s.priv = .machine → mstatusMpp? s.mstatus = some p →
      ∃ t, exec .mret s = .next t ∧ Unchanged s t [] [.mstatus] [] [] ∧ t.priv = p ∧ t.pc = s.mepc ∧
        t.mstatus = mstatusOf (mstatusMpie s.mstatus) true (if s.cfg.modes = .m then .machine else .user)) ∧
    (s.priv ≠ .machine → ∃ t, exec .mret s = .next t ∧
      TrapEntered s t 2 (some (s.illegalTval 0x30200073#32)))

/-- R344: what taking any exception saves, clears and leaves alone, with the code of each exception (R303). -/
def Obligations.TrapEntry : Prop :=
  ∀ (s : State) (tval : Word),
    (∀ c, TrapEntered s (s.takeTrap c tval) c.code (some tval)) ∧
    (∀ w, TrapEntered s (s.illegal w) 2 (some (s.illegalTval w))) ∧
    [TrapCause.instrMisaligned, .instrAccess, .illegalInstruction, .loadMisaligned, .loadAccess,
      .storeMisaligned, .storeAccess, .ecallUser, .ecallSupervisor, .ecallMachine, .loadPage].map
        TrapCause.code = [0, 1, 2, 4, 5, 6, 7, 8, 9, 11, 13]

/-- A handler that executes `mret` at once resumes the interrupted level, address and interrupt enable, with every
register, context and byte of memory as before the exception (R344, R320, R349). -/
def Obligations.TrapThenReturn : Prop :=
  ∀ (s : State) (c : TrapCause) (tval : Word),
    ∃ t, exec .mret (s.takeTrap c tval) = .next t ∧ t.priv = s.priv ∧ t.pc = s.pc ∧
      mstatusMie t.mstatus = mstatusMie s.mstatus ∧
      Unchanged s t [] [.mepc, .mcause, .mtval, .mstatus] [] []

/-! ### CSR instructions at the CSRs of the hart -/

/-- R164: a CSR instruction whose address needs a higher level, or that writes a read-only address, raises
illegal-instruction whatever `mcx_selector` holds. -/
def Obligations.CsrCheckTraps : Prop :=
  ∀ (s : State) (i : Instr) (a : CsrAddr) (rd : Reg) (fn : CsrFn) (src : Word), CsrForm s i a rd fn src →
    (privCode s.priv < a.extractLsb' 8 2 ∨ (fn ≠ .read ∧ a.extractLsb' 10 2 = 3#2)) →
    ∃ t, exec i s = .next t ∧ TrapEntered s t 2 (some (s.illegalTval (encode s.cfg i)))

/-- R172: each of the six CSR instructions at `cx_status`, at every level: `x[rd]` receives the old flags, a value of at
most 0x7F in every state with the invariant, and a write leaves the seven low bits. -/
def Obligations.CxStatusAccess : Prop :=
  ∀ (s : State) (i : Instr) (rd : Reg) (fn : CsrFn) (src : Word), CsrForm s i 0x801 rd fn src →
    ∃ t, exec i s = .next t ∧ Advanced s t [rd] [.cxStatus] [] [] ∧ t.holds rd (zextX s.cxStatus) ∧
      (s.Inv → (t.xr rd).toNat ≤ 0x7F) ∧
      t.cxStatus = if fn = .read then s.cxStatus
        else (accessed fn (zextX s.cxStatus) src).setWidth 32 &&& 0x7F#32

/-- R171: each of the six CSR instructions at `mcx_selector`, at machine level: the stored bits, and `IV` exactly when
a reserved version is written. -/
def Obligations.McxSelectorAccess : Prop :=
  ∀ (s : State) (i : Instr) (rd : Reg) (fn : CsrFn) (src : Word) (v : BitVec 32), CsrForm s i 0xBC0 rd fn src →
    s.priv = .machine → v = (accessed fn (zextX s.mcxSelector) src).setWidth 32 →
    ∃ t, exec i s = .next t ∧ Advanced s t [rd] [.mcxSelector, .cxStatus] [] [] ∧
      t.holds rd (zextX s.mcxSelector) ∧
      t.mcxSelector = (if fn = .read then s.mcxSelector else v &&& 0xF0FF00FF#32) ∧
      t.cxStatus = if fn ≠ .read ∧ 2 ≤ (v.extractLsb' 29 3).toNat then s.cxStatus ||| 1#32 else s.cxStatus

/-- R42 and R173: each of the six CSR instructions at `mcx_table`, at machine level with access control: a write clears
bits 11:0 and keeps the implemented bits of `base_page`, all of them where all are implemented. -/
def Obligations.McxTableAccess : Prop :=
  ∀ (s : State) (i : Instr) (rd : Reg) (fn : CsrFn) (src : Word) (v : Word), CsrForm s i 0xBC1 rd fn src →
    s.priv = .machine → s.cfg.accessControl = true →
    v = norm s.cfg.xlen (accessed fn (norm s.cfg.xlen s.mcxTable) src) →
    ∃ t, exec i s = .next t ∧ Advanced s t [rd] [.mcxTable] [] [] ∧ t.holds rd s.mcxTable ∧
      t.mcxTable = (if fn = .read then s.mcxTable
        else keepLow (12 + s.cfg.basePageBits) v &&& ~~~0xFFF#64) ∧
      (fn ≠ .read → xlenBits s.cfg.xlen ≤ 12 + s.cfg.basePageBits → t.mcxTable = v &&& ~~~0xFFF#64)

/-- R174 and R175: each of the six CSR instructions at `cx_index`, at every level, with access control. A read has no
side effect. A write whose implied load is allowed, at the level `cxidxPriv` of R84, sets the index and loads the
selector of the table entry. That the word loaded is the one memory holds at `mcx_table + 4*index`, untranslated
whatever that level is, is the model's reading (DEDUCED, notes/assumptions/17.md): at supervisor level R84 says that
the address is a virtual one. -/
def Obligations.CxIndexAccess : Prop :=
  ∀ (s : State) (i : Instr) (rd : Reg) (fn : CsrFn) (src : Word) (k : BitVec 10),
    CsrForm s i 0x800 rd fn src → s.cfg.accessControl = true →
    k = (accessed fn (zextX s.cxIndex) src).extractLsb' 0 10 →
    (fn = .read → ∃ t, exec i s = .next t ∧ Advanced s t [rd] [] [] [] ∧ t.holds rd (zextX s.cxIndex)) ∧
    (fn ≠ .read → memCheck s.cfg (cxidxPriv s.cfg s.priv) (s.entryAddr k) 4 .load = .allowed →
      ∃ t, exec i s = .next t ∧ Advanced s t [rd] [.cxIndex, .mcxSelector, .cxStatus] [] [] ∧
        t.holds rd (zextX s.cxIndex) ∧ t.cxIndex = k.setWidth 32 ∧
        s.entryAddr k = norm s.cfg.xlen (s.mcxTable + BitVec.ofNat 64 (4 * k.toNat)) ∧
        t.mcxSelector = s.read32 (s.entryAddr k) &&& 0xF0FF00FF#32 ∧
        t.cxStatus = if 2 ≤ ((s.read32 (s.entryAddr k)).extractLsb' 29 3).toNat then s.cxStatus ||| 1#32
          else s.cxStatus)

/-- R346: a write of `cx_index` whose implied load is refused raises the load fault with the entry's address, and
changes nothing else. -/
def Obligations.CxIndexFault : Prop :=
  ∀ (s : State) (i : Instr) (rd : Reg) (fn : CsrFn) (src : Word) (k : BitVec 10) (v : MemVerdict),
    CsrForm s i 0x800 rd fn src → s.cfg.accessControl = true → fn ≠ .read →
    k = (accessed fn (zextX s.cxIndex) src).extractLsb' 0 10 → v ≠ .allowed →
    memCheck s.cfg (cxidxPriv s.cfg s.priv) (s.entryAddr k) 4 .load = v →
    ∃ t, exec i s = .next t ∧ TrapEntered s t (if v = .pageFault then 13 else 5) (some (s.entryAddr k))

/-- R26: without access control every access to `cx_index` and `mcx_table` raises illegal-instruction. -/
def Obligations.NoAccessControlTraps : Prop :=
  ∀ (s : State) (i : Instr) (a : CsrAddr) (rd : Reg) (fn : CsrFn) (src : Word), CsrForm s i a rd fn src →
    a = 0x800 ∨ a = 0xBC1 → s.cfg.accessControl = false →
    ∃ t, exec i s = .next t ∧ TrapEntered s t 2 (some (s.illegalTval (encode s.cfg i)))

/-- R302: each of the six CSR instructions at each base CSR, at machine level. `mstatus` keeps `MIE`, `MPIE` and `MPP`;
an `MPP` that is no implemented level leaves some implemented level, which one nothing says
(notes/assumptions/8.md); the interrupt bit of `mcause` stays 0 (notes/assumptions/13.md). -/
def Obligations.BaseCsrAccess : Prop :=
  ∀ (s : State) (i : Instr) (a : CsrAddr) (r : HartCsr) (rd : Reg) (fn : CsrFn) (src v : Word),
    CsrForm s i a rd fn src → s.priv = .machine →
    (a, r) ∈ [((0x300 : CsrAddr), HartCsr.mstatus), (0x305, .mtvec), (0x340, .mscratch), (0x341, .mepc),
      (0x342, .mcause), (0x343, .mtval)] →
    v = norm s.cfg.xlen (accessed fn (norm s.cfg.xlen (s.csr r)) src) →
    ∃ t, exec i s = .next t ∧ Advanced s t [rd] [r] [] [] ∧ t.holds rd (s.csr r) ∧
      (fn = .read → t.csr r = s.csr r) ∧
      (fn ≠ .read →
        (a = 0x300 → ∃ p, implemented s.cfg.modes p = true ∧
          t.mstatus = mstatusOf (v.getLsbD 3) (v.getLsbD 7) p ∧
          ∀ q, implemented s.cfg.modes q = true → v.extractLsb' 11 2 = privCode q → p = q) ∧
        (a = 0x305 ∨ a = 0x341 → t.csr r = v &&& ~~~3#64) ∧
        (a = 0x340 ∨ a = 0x343 → t.csr r = v) ∧
        (a = 0x342 → t.csr r = v &&& BitVec.ofNat 64 (2 ^ (xlenBits s.cfg.xlen - 1) - 1)))

/-- R162, R163 and R187: the custom CSR addresses are those of the eleven ranges without the four addresses of the CX-ISA
CSRs; a CSR instruction at an address that is in none of the ranges and is no base CSR of R302 raises
illegal-instruction. -/
def Obligations.AbsentCsrTraps : Prop :=
  ∀ (a : CsrAddr) (custom : List (CsrAddr × CsrAddr)),
    custom = [(0x800, 0x8FF), (0xCC0, 0xCFF), (0x5C0, 0x5FF), (0x9C0, 0x9FF), (0xDC0, 0xDFF), (0x6C0, 0x6FF),
      (0xAC0, 0xAFF), (0xEC0, 0xEFF), (0x7C0, 0x7FF), (0xBC0, 0xBFF), (0xFC0, 0xFFF)] →
    (isCustomCsr a = true ↔
      (∃ r ∈ custom, r.1 ≤ a ∧ a ≤ r.2) ∧ a ∉ [(0x800 : CsrAddr), 0x801, 0xBC0, 0xBC1]) ∧
    ∀ (s : State) (i : Instr) (rd : Reg) (fn : CsrFn) (src : Word), CsrForm s i a rd fn src →
      (∀ r ∈ custom, ¬(r.1 ≤ a ∧ a ≤ r.2)) →
      a ∉ [(0x300 : CsrAddr), 0x305, 0x340, 0x341, 0x342, 0x343] →
      ∃ t, exec i s = .next t ∧ TrapEntered s t 2 (some (s.illegalTval (encode s.cfg i)))

/-! ### Custom operations: dispatch and errors -/

/-- R32: under version 0 or 1 with `cxe` = 1 every custom operation raises illegal-instruction and changes nothing but
the trap registers, the level and `pc`. -/
def Obligations.CxeTraps : Prop :=
  ∀ (s : State) (i : Instr) (dest : Option Reg), CustomOpForm s i dest →
    (selVersion s.mcxSelector = 0 ∨ selVersion s.mcxSelector = 1) → selCxe s.mcxSelector = true →
    ∃ t, exec i s = .next t ∧ TrapEntered s t 2 (some (s.illegalTval (encode s.cfg i)))

/-- R201 under versions 2 to 7: every custom operation, custom-3 among them, sets `IV`, zeroes its destination if it has
one, and goes on, whatever `cxe` holds. That custom-3 has none, on a CPU with a BUILTIN too, is the model's choice
(notes/assumptions/25.md). -/
def Obligations.ReservedVersionResult : Prop :=
  ∀ (s : State) (i : Instr) (dest : Option Reg), CustomOpForm s i dest →
    2 ≤ (selVersion s.mcxSelector).toNat →
    ∃ t, exec i s = .next t ∧ Advanced s t (destRegs dest) [.cxStatus] [] [] ∧ t.destHolds dest 0 ∧
      t.cxStatus = s.cxStatus ||| 1#32

/-- R210: with `cxe` = 0 every custom operation under version 0, and custom-3 under version 1 too, is the CPU's
built-in instruction, or illegal-instruction where the CPU has none. What a built-in instruction leaves is made
legal field by field (notes/assumptions/9.md). -/
def Obligations.BuiltinResult : Prop :=
  ∀ (s : State) (i : Instr) (dest : Option Reg), CustomOpForm s i dest → selCxe s.mcxSelector = false →
    (selVersion s.mcxSelector = 0 ∨ (selVersion s.mcxSelector = 1 ∧ ∃ raw, i = .custom3 raw)) →
    exec i s = .next
      (match s.cfg.builtin with
      | none => s.illegal (encode s.cfg i)
      | some id =>
        match builtinEffect id (encode s.cfg i) s.toHart with
        | none => s.illegal (encode s.cfg i)
        | some h => { s with toHart := h.legal s.cfg })

/-- R203, `IC` and `IS`: under version 1 with `cxe` = 0 a custom operation of an unmapped CXU_ID sets `IC`, one of a
mapped CXU_ID with an invalid STATE_ID sets `IS`; both zero the destination and touch no context. -/
def Obligations.InvalidSelectionErrors : Prop :=
  ∀ (s : State) (i : Instr) (dest : Option Reg), CustomOpForm s i dest → (∀ raw, i ≠ .custom3 raw) →
    selVersion s.mcxSelector = 1 → selCxe s.mcxSelector = false →
    (cxuOf s.cfg (selCxuId s.mcxSelector) = none →
      ∃ t, exec i s = .next t ∧ Advanced s t (destRegs dest) [.cxStatus] [] [] ∧ t.destHolds dest 0 ∧
        t.cxStatus = s.cxStatus ||| 2#32) ∧
    (∀ cx, cxuOf s.cfg (selCxuId s.mcxSelector) = some cx →
      (if cx.stateful then cx.nContexts ≤ (selStateId s.mcxSelector).toNat
        else selStateId s.mcxSelector ≠ 0 ∧
          cx.statelessStates.getLsbD (selStateId s.mcxSelector).toNat = false) →
      ∃ t, exec i s = .next t ∧ Advanced s t (destRegs dest) [.cxStatus] [] [] ∧ t.destHolds dest 0 ∧
        t.cxStatus = s.cxStatus ||| 4#32)

/-- R203 and R208, `OF`: on a context that is off or in reset every custom function instruction, valid CF_ID or not, and
every CX CSR access but those of the mandatory four set `OF` and leave the context; the destination receives a
value nothing constrains. -/
def Obligations.InactiveContextErrors : Prop :=
  ∀ (s : State) (i : Instr) (dest : Option Reg) (cx : ExtConfig), Selects s cx → cx.stateful = true →
    ((s.selectedCtx cx).cs = .off ∨ (s.selectedCtx cx).rst = true) →
    ((∃ f d0 d1, CfForm s i f d0 d1 dest) ∨
      (∃ a rd fn src, CsrForm s i a rd fn src ∧ dest = some rd ∧ isCustomCsr a = true ∧
        csrAllowed a fn s.priv ∧ a ∉ [(0x8FF : CsrAddr), 0x5FF, 0x5FE, 0x5FD])) →
    ∃ t, exec i s = .next t ∧ Advanced s t (destRegs dest) [.cxStatus] [] [] ∧
      t.cxStatus = s.cxStatus ||| 8#32

/-- R203 and R206, `IF`: on a valid selection whose context is not off or in reset, a CF_ID or a custom CSR address that
is not valid for the extension sets `IF`; the destination receives a value nothing constrains, no context
changes, nothing traps. -/
def Obligations.InvalidFunctionErrors : Prop :=
  ∀ (s : State) (i : Instr) (dest : Option Reg) (cx : ExtConfig), Selects s cx →
    (cx.stateful = true → (s.selectedCtx cx).cs ≠ .off ∧ (s.selectedCtx cx).rst = false) →
    ((∃ f d0 d1, CfForm s i f d0 d1 dest ∧ f ∉ cx.validCfs ∧
        (cx.stateful = true → f ∉ [s.cfg.cfReadStatus, s.cfg.cfWriteStatus, s.cfg.cfReadState,
          s.cfg.cfWriteState])) ∨
      (∃ a rd fn src, CsrForm s i a rd fn src ∧ dest = some rd ∧ isCustomCsr a = true ∧
        csrAllowed a fn s.priv ∧ a ∉ cx.validCsrs ∧
        (cx.identity = true → ∀ g ∈ s.cfg.guidCsrs, g.addr ≠ a) ∧
        (cx.stateful = true → a ∉ [(0x8FF : CsrAddr), 0x5FF, 0x5FE, 0x5FD]))) →
    ∃ t, exec i s = .next t ∧ Advanced s t (destRegs dest) [.cxStatus] [] [] ∧
      t.cxStatus = s.cxStatus ||| 16#32

/-! ### Custom operations: what the extension does -/

/-- R209 and R211: a valid custom function of a stateful extension, in every instruction form. The destination
receives the data, the status sets its flag, the context receives state and error, and `cs` becomes `dirty` when
the extension says the function modifies the context or it did. -/
def Obligations.StatefulFunctionResult : Prop :=
  ∀ (s : State) (i : Instr) (f : CfId) (d0 d1 : Word) (dest : Option Reg) (cx : ExtConfig) (r : CxResult),
    CfForm s i f d0 d1 dest → SelectsActive s cx → f ∈ cx.validCfs →
    f ∉ [s.cfg.cfReadStatus, s.cfg.cfWriteStatus, s.cfg.cfReadState, s.cfg.cfWriteState] →
    r = cx.cf f d0 d1 (encode s.cfg i) (s.selectedCtx cx).st (s.selectedCtx cx).error →
    ∃ t, exec i s = .next t ∧ Advanced s t (destRegs dest) [.cxStatus] [s.selected] [] ∧
      t.destHolds dest r.data ∧
      t.cxStatus = (match r.status with
        | .ok => s.cxStatus
        | .op => s.cxStatus ||| 32#32
        | .cu => s.cxStatus ||| 64#32) ∧
      t.selectedCtx cx = { s.selectedCtx cx with
        st := r.st
        error := cx.errBits s.cfg.xlen r.err
        cs := if cx.saysModifies (.cf f) d0 d1 (s.selectedCtx cx).st (s.selectedCtx cx).error = true ∨
            r.st ≠ (s.selectedCtx cx).st ∨ cx.errBits s.cfg.xlen r.err ≠ (s.selectedCtx cx).error
          then .dirty else (s.selectedCtx cx).cs }

/-- R212: a valid custom function of a stateless extension, in every instruction form, computes from its operands and
its word alone and changes no context. It holds for a function at one of the four standard CF_IDs too, where the
extension's `valid_cf` names one of them: that such a function may be, after R280 and R206 and not R281, is the model's
choice (DESIGN CHOICE, notes/assumptions/29.md). -/
def Obligations.StatelessFunctionResult : Prop :=
  ∀ (s : State) (i : Instr) (f : CfId) (d0 d1 : Word) (dest : Option Reg) (cx : ExtConfig),
    CfForm s i f d0 d1 dest → Selects s cx → cx.stateful = false → f ∈ cx.validCfs →
    ∃ t, exec i s = .next t ∧ Advanced s t (destRegs dest) [.cxStatus] [] [] ∧
      t.destHolds dest (cx.pureCf f d0 d1 (encode s.cfg i)).1 ∧
      t.cxStatus = if (cx.pureCf f d0 d1 (encode s.cfg i)).2 then s.cxStatus ||| 32#32 else s.cxStatus

/-- R58, R209, R211, R212, R261 and R262: each of the six CSR instructions at a valid CX CSR address. A CSR of a stateful
extension's own, which is none of the mandatory four, on an active context: `x[rd]` receives the data, the status sets
its flag, the context receives state and error, and `cs` becomes `dirty` when the extension says the access modifies
the context or it did. An identity CSR, which can only be read and only at machine level: `x[rd]` receives word `k` of
XLEN bits of the extension's or the CXU's identifier, nothing else changes. A CSR of a stateless extension: `x[rd]`
receives its constant, whatever the access, and no context changes. This third clause holds at 0x8FF, 0x5FF, 0x5FE and
0x5FD too, where the extension's `valid_csr` names one of them: that such a CSR may be, after R261 and R263 and not
R51, is the model's choice (DESIGN CHOICE, notes/assumptions/26.md). -/
def Obligations.ExtensionCsrResult : Prop :=
  ∀ (s : State) (i : Instr) (a : CsrAddr) (rd : Reg) (fn : CsrFn) (src : Word) (cx : ExtConfig),
    CsrForm s i a rd fn src → isCustomCsr a = true → csrAllowed a fn s.priv →
    (∀ r : CxResult, SelectsActive s cx → a ∈ cx.validCsrs → a ∉ [(0x8FF : CsrAddr), 0x5FF, 0x5FE, 0x5FD] →
      (cx.identity = true → ∀ g ∈ s.cfg.guidCsrs, g.addr ≠ a) →
      r = cx.csr a fn src (s.selectedCtx cx).st (s.selectedCtx cx).error →
      ∃ t, exec i s = .next t ∧ Advanced s t [rd] [.cxStatus] [s.selected] [] ∧ t.holds rd r.data ∧
        t.cxStatus = (match r.status with
          | .ok => s.cxStatus
          | .op => s.cxStatus ||| 32#32
          | .cu => s.cxStatus ||| 64#32) ∧
        t.selectedCtx cx = { s.selectedCtx cx with
          st := r.st
          error := cx.errBits s.cfg.xlen r.err
          cs := if cx.saysModifies (.csr fn) src (a.setWidth 64) (s.selectedCtx cx).st (s.selectedCtx cx).error = true ∨
              r.st ≠ (s.selectedCtx cx).st ∨ cx.errBits s.cfg.xlen r.err ≠ (s.selectedCtx cx).error
            then .dirty else (s.selectedCtx cx).cs }) ∧
    (∀ g ∈ s.cfg.guidCsrs, Selects s cx →
      (cx.stateful = true → (s.selectedCtx cx).cs ≠ .off ∧ (s.selectedCtx cx).rst = false) →
      cx.identity = true → g.addr = a → 0xFC0 ≤ a → (s.cfg.guidCsrs.map GuidCsr.addr).Nodup →
      fn = .read ∧ s.priv = .machine ∧
      ∃ t, exec i s = .next t ∧ Advanced s t [rd] [] [] [] ∧
        t.holds rd ((match g.which with
          | .cx => cx.cxGuid
          | .cxu => cx.cxuGuid).extractLsb' (g.word * xlenBits s.cfg.xlen) 64)) ∧
    (Selects s cx → cx.stateful = false → a ∈ cx.validCsrs →
      (cx.identity = true → ∀ g ∈ s.cfg.guidCsrs, g.addr ≠ a) →
      ∃ t, exec i s = .next t ∧ Advanced s t [rd] [.cxStatus] [] [] ∧ t.holds rd (cx.constCsr a .read 0).1 ∧
        t.cxStatus = if (cx.constCsr a fn src).2 then s.cxStatus ||| 32#32 else s.cxStatus)

/-- R283: `cx_read_status`, and the same function in the other forms: the destination receives the state status word and
nothing else changes. -/
def Obligations.ReadStatusResult : Prop :=
  ∀ (s : State) (i : Instr) (d0 d1 : Word) (dest : Option Reg) (cx : ExtConfig),
    CfForm s i s.cfg.cfReadStatus d0 d1 dest → SelectsActive s cx →
    ∃ t, exec i s = .next t ∧ Advanced s t (destRegs dest) [] [] [] ∧
      t.destHolds dest (statusPack s.cfg (s.selectedCtx cx).cs.bits (cx.size (s.selectedCtx cx).st)
        (s.selectedCtx cx).error)

/-- R284: `cx_write_status`, and the same function in the other forms: the destination receives the previous word. `cs` =
1 starts a reset (for a number of steps nothing constrains) and changes nothing else; `cs` = 0 turns the context
off and leaves its state and error unconstrained; 2 and 3 store status and error and hand the size to the
extension. -/
def Obligations.WriteStatusResult : Prop :=
  ∀ (s : State) (i : Instr) (d0 d1 : Word) (dest : Option Reg) (cx : ExtConfig),
    s.cfg.standardCfsDistinct = true → CfForm s i s.cfg.cfWriteStatus d0 d1 dest → SelectsActive s cx →
    ∃ t, exec i s = .next t ∧ Advanced s t (destRegs dest) [] [s.selected] [] ∧
      t.destHolds dest (statusPack s.cfg (s.selectedCtx cx).cs.bits (cx.size (s.selectedCtx cx).st)
        (s.selectedCtx cx).error) ∧
      ((statusUnpack s.cfg d0).1 = 1#2 →
        ∃ n, t.selectedCtx cx = { s.selectedCtx cx with rst := true, stepsLeft := n }) ∧
      ((statusUnpack s.cfg d0).1 = 0#2 →
        ∃ st err, t.selectedCtx cx = { s.selectedCtx cx with cs := .off, st := st, error := err }) ∧
      (∀ cs, ((statusUnpack s.cfg d0).1 = 2#2 ∧ cs = .clean) ∨ ((statusUnpack s.cfg d0).1 = 3#2 ∧ cs = .dirty) →
        t.selectedCtx cx = { s.selectedCtx cx with
          cs := cs
          error := cx.errBits s.cfg.xlen (statusUnpack s.cfg d0).2.2
          st := cx.sizeWrite (s.selectedCtx cx).st (statusUnpack s.cfg d0).2.1 })

/-- R285: `cx_read_state`, and the same function in the other forms: below the size the destination receives the word;
at or above it a value nothing constrains. Nothing else changes. -/
def Obligations.ReadStateResult : Prop :=
  ∀ (s : State) (i : Instr) (d0 d1 : Word) (dest : Option Reg) (cx : ExtConfig),
    s.cfg.standardCfsDistinct = true → CfForm s i s.cfg.cfReadState d0 d1 dest → SelectsActive s cx →
    ∃ t, exec i s = .next t ∧ Advanced s t (destRegs dest) [] [] [] ∧
      (d0.toNat < (cx.size (s.selectedCtx cx).st).toNat →
        t.destHolds dest (cx.saveWord (s.selectedCtx cx).st d0.toNat))

/-- R286: `cx_write_state`, and the same function in the other forms: below the size the word is replaced and the
context is dirty; at or above it the write is dropped. The destination receives the written word. -/
def Obligations.WriteStateResult : Prop :=
  ∀ (s : State) (i : Instr) (d0 d1 : Word) (dest : Option Reg) (cx : ExtConfig),
    s.cfg.standardCfsDistinct = true → CfForm s i s.cfg.cfWriteState d0 d1 dest → SelectsActive s cx →
    ∃ t, exec i s = .next t ∧ Advanced s t (destRegs dest) [] [s.selected] [] ∧ t.destHolds dest d1 ∧
      t.selectedCtx cx =
        if d0.toNat < (cx.size (s.selectedCtx cx).st).toNat then
          { s.selectedCtx cx with st := cx.loadWord (s.selectedCtx cx).st d0.toNat d1, cs := .dirty }
        else s.selectedCtx cx

/-! ### The mandatory CX CSRs -/

/-- R241: each of the six CSR instructions at `cxs_error`, at every level. -/
def Obligations.CxsErrorAccess : Prop :=
  ∀ (s : State) (i : Instr) (rd : Reg) (fn : CsrFn) (src : Word) (cx : ExtConfig),
    CsrForm s i 0x8FF rd fn src → SelectsActive s cx →
    ∃ t, exec i s = .next t ∧ Advanced s t [rd] [] [s.selected] [] ∧ t.holds rd (s.selectedCtx cx).error ∧
      t.selectedCtx cx = if fn = .read then s.selectedCtx cx
        else { s.selectedCtx cx with
          error := cx.errBits s.cfg.xlen (accessed fn (s.selectedCtx cx).error src) }

/-- R243 and R247: each of the six CSR instructions at `scxs_status`, above user level, field by field. -/
def Obligations.ScxsStatusAccess : Prop :=
  ∀ (s : State) (i : Instr) (rd : Reg) (fn : CsrFn) (src old v : Word) (cx : ExtConfig),
    CsrForm s i 0x5FF rd fn src → s.priv ≠ .user → SelectsActive s cx →
    old = (0#3 ++ (s.selectedCtx cx).cs.bits ++ 0#1 ++ 0#10 ++ cx.size (s.selectedCtx cx).st).setWidth 64 →
    v = accessed fn old src →
    ∃ t, exec i s = .next t ∧ Advanced s t [rd] [] [s.selected] [] ∧ t.holds rd old ∧
      (fn = .read → t.selectedCtx cx = s.selectedCtx cx) ∧
      (fn ≠ .read → v.getLsbD 26 = true →
        ∃ n, t.selectedCtx cx = { s.selectedCtx cx with rst := true, stepsLeft := n }) ∧
      (fn ≠ .read → v.getLsbD 26 = false → v.extractLsb' 27 2 = 0#2 →
        ∃ st err, t.selectedCtx cx = { s.selectedCtx cx with cs := .off, st := st, error := err }) ∧
      (fn ≠ .read → v.getLsbD 26 = false → ∀ cs : CtxStatus, cs ≠ .off → v.extractLsb' 27 2 = cs.bits →
        t.selectedCtx cx = { s.selectedCtx cx with
          cs := cs
          st := cx.sizeWrite (s.selectedCtx cx).st (v.extractLsb' 0 16) })

/-- R252 and R253: each of the six CSR instructions at `scxs_index`, above user level: an index that is not below the
size is zeroed. -/
def Obligations.ScxsIndexAccess : Prop :=
  ∀ (s : State) (i : Instr) (rd : Reg) (fn : CsrFn) (src old v : Word) (k : BitVec 16) (cx : ExtConfig),
    CsrForm s i 0x5FE rd fn src → s.priv ≠ .user → SelectsActive s cx →
    old = (BitVec.ofBool (s.selectedCtx cx).incr ++ 0#15 ++ (s.selectedCtx cx).index).setWidth 64 →
    v = accessed fn old src → k = v.extractLsb' 0 16 &&& BitVec.ofNat 16 (2 ^ cx.indexW - 1) →
    ∃ t, exec i s = .next t ∧ Advanced s t [rd] [] [s.selected] [] ∧ t.holds rd old ∧
      t.selectedCtx cx = if fn = .read then s.selectedCtx cx
        else { s.selectedCtx cx with
          incr := v.getLsbD 31
          index := if (cx.size (s.selectedCtx cx).st).toNat ≤ k.toNat then 0 else k }

/-- R254 to R256: each of the six CSR instructions at `scxs_data`, above user level. Below the size the word is read and,
unless the access is a read, replaced and the context is dirty; at or above it the value read is unconstrained and
the write dropped. With `incr` the index moves on by one, to 0 at the size (in its implemented bits,
notes/assumptions/14.md). -/
def Obligations.ScxsDataAccess : Prop :=
  ∀ (s : State) (i : Instr) (rd : Reg) (fn : CsrFn) (src old : Word) (st : CxState) (cs : CtxStatus)
      (cx : ExtConfig),
    CsrForm s i 0x5FD rd fn src → s.priv ≠ .user → SelectsActive s cx →
    old = norm s.cfg.xlen (cx.saveWord (s.selectedCtx cx).st (s.selectedCtx cx).index.toNat) →
    (st, cs) = (if fn ≠ .read ∧ (s.selectedCtx cx).index.toNat < (cx.size (s.selectedCtx cx).st).toNat
      then (cx.loadWord (s.selectedCtx cx).st (s.selectedCtx cx).index.toNat
        (norm s.cfg.xlen (accessed fn old src)), CtxStatus.dirty)
      else ((s.selectedCtx cx).st, (s.selectedCtx cx).cs)) →
    ∃ t, exec i s = .next t ∧ Advanced s t [rd] [] [s.selected] [] ∧
      ((s.selectedCtx cx).index.toNat < (cx.size (s.selectedCtx cx).st).toNat → t.holds rd old) ∧
      t.selectedCtx cx = { s.selectedCtx cx with
        st := st
        cs := cs
        index := if (s.selectedCtx cx).incr = false then (s.selectedCtx cx).index
          else if (cx.size st).toNat ≤ (s.selectedCtx cx).index.toNat + 1 then 0
          else ((s.selectedCtx cx).index + 1) &&& BitVec.ofNat 16 (2 ^ cx.indexW - 1) }

/-- R248 with a reset in progress: each of the six CSR instructions at each mandatory CX CSR completes, sets no flag and
changes nothing in the context; `scxs_status` reads `rst` = 1 and zero in the version and reserved fields. -/
def Obligations.ResettingContextAccess : Prop :=
  ∀ (s : State) (i : Instr) (a : CsrAddr) (rd : Reg) (fn : CsrFn) (src : Word) (cx : ExtConfig),
    CsrForm s i a rd fn src → a ∈ [(0x8FF : CsrAddr), 0x5FF, 0x5FE, 0x5FD] → csrAllowed a fn s.priv →
    Selects s cx → cx.stateful = true → (s.selectedCtx cx).rst = true →
    ∃ t, exec i s = .next t ∧ Advanced s t [rd] [] [] [] ∧
      (a = 0x5FF → rd ≠ 0 → (t.xr rd).getLsbD 26 = true ∧ (t.xr rd).extractLsb' 16 10 = 0#10 ∧
        (t.xr rd).extractLsb' 29 35 = 0#35)

/-- R248 with the context off: `scxs_status` reads `cs` = 0 and `rst` = 0, and a write of it starts a reset or turns the
context on; `cxs_error` is as in R241; a write of `scxs_index` stores `incr` and leaves the index
unconstrained; a write of `scxs_data` is dropped. No flag is set. -/
def Obligations.OffContextAccess : Prop :=
  ∀ (s : State) (i : Instr) (a : CsrAddr) (rd : Reg) (fn : CsrFn) (src : Word) (cx : ExtConfig),
    CsrForm s i a rd fn src → a ∈ [(0x8FF : CsrAddr), 0x5FF, 0x5FE, 0x5FD] → csrAllowed a fn s.priv →
    Selects s cx → cx.stateful = true → (s.selectedCtx cx).rst = false → (s.selectedCtx cx).cs = .off →
    ∃ t, exec i s = .next t ∧ Advanced s t [rd] [] [s.selected] [] ∧
      (a = 0x5FF → (rd ≠ 0 → (t.xr rd).extractLsb' 16 48 = 0#48) ∧
        ((fn = .read ∨ fn = .clear) → t.selectedCtx cx = s.selectedCtx cx) ∧
        ((fn = .write ∨ fn = .set) →
          (src.getLsbD 26 = true →
            ∃ n, t.selectedCtx cx = { s.selectedCtx cx with rst := true, stepsLeft := n }) ∧
          (src.getLsbD 26 = false → ∀ cs : CtxStatus, src.extractLsb' 27 2 = cs.bits →
            t.selectedCtx cx = { s.selectedCtx cx with cs := cs }))) ∧
      (a = 0x8FF → t.holds rd (s.selectedCtx cx).error ∧
        t.selectedCtx cx = if fn = .read then s.selectedCtx cx
          else { s.selectedCtx cx with
            error := cx.errBits s.cfg.xlen (accessed fn (s.selectedCtx cx).error src) }) ∧
      (a = 0x5FE →
        t.holds rd ((BitVec.ofBool (s.selectedCtx cx).incr ++ 0#15 ++ (s.selectedCtx cx).index).setWidth 64) ∧
        (fn = .read → t.selectedCtx cx = s.selectedCtx cx) ∧
        (fn ≠ .read → ∃ k, t.selectedCtx cx = { s.selectedCtx cx with
          incr := (accessed fn ((BitVec.ofBool (s.selectedCtx cx).incr ++ 0#15 ++
            (s.selectedCtx cx).index).setWidth 64) src).getLsbD 31
          index := k })) ∧
      (a = 0x5FD → t.selectedCtx cx = s.selectedCtx cx)

/-- R249: a reset in progress with `n` steps left is still in progress after `n` steps of the system and complete after
one more, and then the context is in its power-up state; a context without a reset is left alone by the passing
of steps. The count is the model's (notes/assumptions/4.md). -/
def Obligations.ResetsComplete : Prop :=
  ∀ (s : State) (cx : ExtConfig) (c i : BitVec 8), cxuOf s.cfg c = some cx →
    ((s.ctx cx c i).rst = false → s.tick.ctx cx c i = s.ctx cx c i) ∧
    ((s.ctx cx c i).rst = true →
      (State.tick^[(s.ctx cx c i).stepsLeft] s).ctx cx c i = { s.ctx cx c i with stepsLeft := 0 } ∧
      (State.tick^[(s.ctx cx c i).stepsLeft + 1] s).ctx cx c i =
        { st := cx.initial, cs := .initial, rst := false, error := 0, index := 0, incr := false,
          stepsLeft := 0 })

/-- R255 and R286: writing back every word of the save data of a state, in order, with the effect of `cx_write_state`,
into a context of the same size gives the context that state, whatever it held before; the context is dirty if
there was a word to write, and is otherwise as before. -/
def Obligations.SaveThenRestore : Prop :=
  ∀ (s : State) (cx : ExtConfig) (c i : BitVec 8) (st : CxState), ExtConfig.WF s.cfg cx → cx.stateful = true →
    cx.holds st = st → cx.holds (s.ctx cx c i).st = (s.ctx cx c i).st →
    cx.size (s.ctx cx c i).st = cx.size st →
    ((cx.blob s.cfg.xlen st).zipIdx.foldl
      (fun t w => t.writeState cx c i (BitVec.ofNat 64 w.2) w.1) s).ctx cx c i =
      { s.ctx cx c i with
        st := st
        cs := if cx.size st = 0 then (s.ctx cx c i).cs else .dirty }

/-! ### The whole machine -/

/-- R48: no instruction changes a state context other than the one `mcx_selector` names. -/
def Obligations.OtherContextsUntouched : Prop :=
  ∀ (s t : State) (i : Instr), exec i s = .next t →
    ∀ cx c k, (c, k) ≠ s.selected → t.ctx cx c k = s.ctx cx c k

/-- A custom operation either raises illegal-instruction, or goes on and changes at most its destination register, one
flag of `cx_status`, and the selected context (R142, R202, R211), where the CPU has no built-in instruction. -/
def Obligations.CustomOperationFrame : Prop :=
  ∀ (s t : State) (i : Instr) (dest : Option Reg), CustomOpForm s i dest → s.cfg.builtin = none →
    exec i s = .next t →
    TrapEntered s t 2 (some (s.illegalTval (encode s.cfg i))) ∨
    (Advanced s t (destRegs dest) [.cxStatus] [s.selected] [] ∧
      (t.cxStatus = s.cxStatus ∨ ∃ k, k < 7 ∧ t.cxStatus = s.cxStatus ||| BitVec.twoPow 32 k))

/-- The flags of `cx_status` are sticky: a step that executes no CSR instruction at `cx_status` clears none of them
(R37, R205 (f)), where the CPU has no built-in instruction. -/
def Obligations.FlagsAreSticky : Prop :=
  ∀ (s t : State) (i : Instr), s.cfg.builtin = none → exec i s = .next t →
    (∀ rd fn src, ¬CsrForm s i 0x801 rd fn src) → s.cxStatus &&& t.cxStatus = s.cxStatus

/-- R366: at user level `mcx_selector` changes only by a write of `cx_index`, and then to the stored bits of the word
that memory holds at the entry of the new index; `mcx_table` never changes. That the entry's address is not translated,
at supervisor level either, is the model's reading (DEDUCED, notes/assumptions/17.md). -/
def Obligations.UserSelectsThroughTheTable : Prop :=
  ∀ (s t : State) (i : Instr), s.priv = .user → s.cfg.builtin = none → exec i s = .next t →
    t.mcxTable = s.mcxTable ∧
    (t.mcxSelector = s.mcxSelector ∨
      ∃ rd fn src, CsrForm s i 0x800 rd fn src ∧ fn ≠ .read ∧
        t.mcxSelector = s.read32 (s.entryAddr (t.cxIndex.extractLsb' 0 10)) &&& 0xF0FF00FF#32)

/-- R356: the level of the hart changes only by taking an exception, which enters machine level, or by `mret` at machine
level, where the CPU has no built-in instruction. -/
def Obligations.LevelChanges : Prop :=
  ∀ (s t : State) (i : Instr), s.cfg.builtin = none → exec i s = .next t → t.priv ≠ s.priv →
    (∃ code tval, TrapEntered s t code tval) ∨ (i = .mret ∧ s.priv = .machine)
end

