-- ==== Sys2Proof/Laws/Bits.lean ====
section
/-! SUPPORT. Lemmas of `norm`, the masks, `mstatus`, and the fields of selectors. -/

namespace Sys2Proof.Machine

@[simp] theorem norm_rv64 (v : Word) : norm .rv64 v = v := rfl

theorem norm_rv32 (v : Word) : norm .rv32 v = v &&& 0xFFFFFFFF#64 := by
  apply BitVec.eq_of_toNat_eq
  simp only [norm, BitVec.toNat_setWidth, BitVec.toNat_and]
  rw [show (0xFFFFFFFF#64).toNat = 2 ^ 32 - 1 from rfl, Nat.and_two_pow_sub_one_eq_mod]
  omega

@[simp] theorem norm_zero (x : Xlen) : norm x 0#64 = 0#64 := by cases x <;> rfl

@[simp] theorem norm_norm (x : Xlen) (v : Word) : norm x (norm x v) = norm x v := by
  cases x
  · simp only [norm_rv32, BitVec.and_assoc, BitVec.and_self]
  · rfl

theorem norm_toNat (x : Xlen) (v : Word) : (norm x v).toNat = v.toNat % 2 ^ xlenBits x := by
  cases x
  · simp only [norm, BitVec.toNat_setWidth, xlenBits]
    omega
  · simp only [norm, xlenBits]
    omega

theorem norm_lt (x : Xlen) (v : Word) : (norm x v).toNat < 2 ^ xlenBits x := by
  rw [norm_toNat]
  exact Nat.mod_lt _ (by cases x <;> decide)

/-- A value of at most 32 bits is an XLEN-bit value. -/
theorem norm_zextX (x : Xlen) {n : Nat} (hn : n ≤ 32) (v : BitVec n) : norm x (zextX v) = zextX v := by
  apply BitVec.eq_of_toNat_eq
  rw [norm_toNat]
  have hv : v.toNat < 2 ^ 32 := Nat.lt_of_lt_of_le v.isLt (Nat.pow_le_pow_right (by decide) hn)
  simp only [zextX, BitVec.toNat_setWidth]
  cases x <;> simp only [xlenBits] <;> omega

@[simp] theorem norm_zextX32 (x : Xlen) (v : BitVec 32) : norm x (zextX v) = zextX v :=
  norm_zextX x (Nat.le_refl _) v

/-- The low `n` bits of a word are below `2^n`. -/
theorem keepLow_lt (n : Nat) (v : Word) : (keepLow n v).toNat < 2 ^ n := by
  rw [keepLow, lowMask, BitVec.toNat_and, BitVec.toNat_ofNat]
  exact (Nat.and_le_right.trans (Nat.mod_le _ _)).trans_lt (Nat.sub_one_lt (Nat.two_pow_pos n).ne')

/-- The error of an extension is below `2^ERROR_W` (R52). -/
theorem errBits_lt (cx : ExtConfig) (x : Xlen) (v : Word) : (cx.errBits x v).toNat < 2 ^ cx.errorW := by
  rw [ExtConfig.errBits, norm_toNat]
  exact (Nat.mod_le _ _).trans_lt (keepLow_lt _ _)

/-- Masking commutes with taking the XLEN-bit value. -/
theorem norm_and (x : Xlen) (v m : Word) : norm x (v &&& m) = norm x v &&& m := by
  cases x
  · simp only [norm_rv32, BitVec.and_assoc, BitVec.and_comm m]
  · rfl

@[simp] theorem clear2_clear2 (v : Word) : clear2 (clear2 v) = clear2 v := by
  simp only [clear2, BitVec.and_assoc, BitVec.and_self]

@[simp] theorem norm_clear2 (x : Xlen) (v : Word) : norm x (clear2 v) = clear2 (norm x v) := norm_and x v _

/-- An address is fixed by clearing its two low bits exactly when they are zero. -/
theorem clear2_eq_self {v : Word} (h : v &&& 3#64 = 0#64) : clear2 v = v := by
  have hsplit : v &&& (~~~3#64 ||| 3#64) = v := by
    rw [show ~~~3#64 ||| 3#64 = BitVec.allOnes 64 by decide, BitVec.and_allOnes]
  rw [BitVec.and_or_distrib_left, h, BitVec.or_zero] at hsplit
  exact hsplit

theorem clear2_add4 {v : Word} (h : clear2 v = v) : clear2 (v + 4) = v + 4 := by
  have hz : v &&& 3#64 = 0#64 := by
    rw [← h]
    simp [clear2, BitVec.and_assoc]
  have hn : v.toNat % 4 = 0 := by
    have := congrArg BitVec.toNat hz
    rw [BitVec.toNat_and, show (3#64).toNat = 2 ^ 2 - 1 from rfl, Nat.and_two_pow_sub_one_eq_mod] at this
    simpa using this
  apply clear2_eq_self
  apply BitVec.eq_of_toNat_eq
  rw [BitVec.toNat_and, show (3#64).toNat = 2 ^ 2 - 1 from rfl, Nat.and_two_pow_sub_one_eq_mod,
    BitVec.toNat_add]
  simp
  omega

@[simp] theorem keepLow_keepLow (n : Nat) (v : Word) : keepLow n (keepLow n v) = keepLow n v := by
  simp only [keepLow, BitVec.and_assoc, BitVec.and_self]

@[simp] theorem keepLow16_keepLow16 (n : Nat) (v : BitVec 16) :
    keepLow16 n (keepLow16 n v) = keepLow16 n v := by
  simp only [keepLow16, BitVec.and_assoc, BitVec.and_self]

@[simp] theorem keepLow_zero (n : Nat) : keepLow n 0#64 = 0#64 := by simp [keepLow]

@[simp] theorem keepLow16_zero (n : Nat) : keepLow16 n 0#16 = 0#16 := by simp [keepLow16]

theorem norm_keepLow (x : Xlen) (n : Nat) (v : Word) : norm x (keepLow n v) = keepLow n (norm x v) :=
  norm_and x v _

@[simp] theorem errBits_errBits (cx : ExtConfig) (x : Xlen) (v : Word) :
    cx.errBits x (cx.errBits x v) = cx.errBits x v := by
  simp only [ExtConfig.errBits, norm_keepLow, norm_norm, keepLow_keepLow]

@[simp] theorem errBits_zero (cx : ExtConfig) (x : Xlen) : cx.errBits x 0#64 = 0#64 := by
  simp [ExtConfig.errBits]

@[simp] theorem norm_errBits (cx : ExtConfig) (x : Xlen) (v : Word) :
    norm x (cx.errBits x v) = cx.errBits x v := by simp [ExtConfig.errBits]

@[simp] theorem statusBits_statusBits (v : BitVec 32) : statusBits (statusBits v) = statusBits v := by
  simp only [statusBits, BitVec.and_assoc, BitVec.and_self]

@[simp] theorem selectorBits_selectorBits (v : BitVec 32) :
    selectorBits (selectorBits v) = selectorBits v := by
  simp only [selectorBits, BitVec.and_assoc, BitVec.and_self]

@[simp] theorem tableBits_tableBits (cfg : Config) (v : Word) :
    tableBits cfg (tableBits cfg v) = tableBits cfg v := by
  simp only [tableBits, norm_and, norm_norm, keepLow]
  generalize norm cfg.xlen v = w
  generalize lowMask (12 + cfg.basePageBits) = m
  rw [BitVec.and_assoc (w &&& m), BitVec.and_comm (~~~4095#64) m, ← BitVec.and_assoc (w &&& m),
    BitVec.and_assoc w m m, BitVec.and_self, BitVec.and_assoc (w &&& m), BitVec.and_self]

@[simp] theorem norm_tableBits (cfg : Config) (v : Word) : norm cfg.xlen (tableBits cfg v) = tableBits cfg v := by
  simp only [tableBits, norm_and, norm_keepLow, norm_norm]

/-- A flag keeps the reserved bits of `cx_status` zero. -/
theorem statusBits_into (f : CxFlag) {v : BitVec 32} (h : statusBits v = v) :
    statusBits (f.into v) = f.into v := by
  have hand : ∀ g : CxFlag, BitVec.twoPow 32 g.bit &&& 0x7F#32 = BitVec.twoPow 32 g.bit := by
    intro g; cases g <;> decide
  unfold statusBits CxFlag.into at *
  rw [BitVec.and_or_distrib_right, h, hand]

/-- Setting a flag clears none: every bit set before is set after (R205 (f)). -/
theorem into_monotone (f : CxFlag) (v : BitVec 32) : v &&& f.into v = v := by
  unfold CxFlag.into
  rw [BitVec.and_or_distrib_left, BitVec.and_self, BitVec.or_comm]
  ext i hi
  simp
  tauto

/-! ### Levels and `mstatus` -/

@[simp] theorem implemented_machine (modes : Modes) : implemented modes .machine = true := by
  cases modes <;> rfl

@[simp] theorem implemented_leastLevel (modes : Modes) : implemented modes (leastLevel modes) = true := by
  cases modes <;> rfl

@[simp] theorem implemented_pickLevel (modes : Modes) (n : Nat) :
    implemented modes (pickLevel modes n) = true := by
  cases modes
  · rfl
  · simp only [pickLevel]; split <;> rfl
  · simp only [pickLevel]; split <;> [rfl; (split <;> rfl)]

@[simp] theorem privOfCode_privCode (p : Priv) : privOfCode? (privCode p) = some p := by cases p <;> rfl

@[simp] theorem mie_mstatusOf (mie mpie : Bool) (mpp : Priv) : mstatusMie (mstatusOf mie mpie mpp) = mie := by
  cases mie <;> cases mpie <;> cases mpp <;> decide

@[simp] theorem mpie_mstatusOf (mie mpie : Bool) (mpp : Priv) :
    mstatusMpie (mstatusOf mie mpie mpp) = mpie := by
  cases mie <;> cases mpie <;> cases mpp <;> decide

@[simp] theorem mppq_mstatusOf (mie mpie : Bool) (mpp : Priv) :
    mstatusMpp? (mstatusOf mie mpie mpp) = some mpp := by
  cases mie <;> cases mpie <;> cases mpp <;> decide

@[simp] theorem mpp_mstatusOf (mie mpie : Bool) (mpp : Priv) : mstatusMpp (mstatusOf mie mpie mpp) = mpp := by
  simp [mstatusMpp]

@[simp] theorem norm_mstatusOf (x : Xlen) (mie mpie : Bool) (mpp : Priv) :
    norm x (mstatusOf mie mpie mpp) = mstatusOf mie mpie mpp := by
  cases x <;> cases mie <;> cases mpie <;> cases mpp <;> decide

/-! ### Selectors -/

@[simp] theorem selVersion_selectorBits (v : BitVec 32) : selVersion (selectorBits v) = selVersion v := by
  have hm : (0xF0FF00FF#32).extractLsb' 29 3 = BitVec.allOnes 3 := by decide
  simp only [selVersion, selectorBits, BitVec.extractLsb'_and, hm, BitVec.and_allOnes]

@[simp] theorem selStateId_selectorBits (v : BitVec 32) : selStateId (selectorBits v) = selStateId v := by
  have hm : (0xF0FF00FF#32).extractLsb' 16 8 = BitVec.allOnes 8 := by decide
  simp only [selStateId, selectorBits, BitVec.extractLsb'_and, hm, BitVec.and_allOnes]

@[simp] theorem selCxuId_selectorBits (v : BitVec 32) : selCxuId (selectorBits v) = selCxuId v := by
  have hm : (0xF0FF00FF#32).extractLsb' 0 8 = BitVec.allOnes 8 := by decide
  simp only [selCxuId, selectorBits, BitVec.extractLsb'_and, hm, BitVec.and_allOnes]

@[simp] theorem selCxe_selectorBits (v : BitVec 32) : selCxe (selectorBits v) = selCxe v := by
  simp only [selCxe, selectorBits, BitVec.getLsbD_and]
  rw [show (0xF0FF00FF#32).getLsbD 28 = true by decide, Bool.and_true]

end Sys2Proof.Machine
end

