-- ==== Sys2Proof/Laws/Cells.lean ====
section
/-! SUPPORT. Lemmas of the finite maps, and what memory keeps: its canonical form and the bytes not written. -/

namespace Sys2Proof.Machine

variable {α : Type}

/-- A value looked up after one is put in: the value put in, or what was there. -/
theorem Cells.get_set (l : List (Nat × α)) (a b : Nat) (v : α) :
    Cells.get (Cells.set l a v) b = if b = a then some v else Cells.get l b := by
  fun_induction Cells.set l a v <;> grind [Cells.get]

/-- A value looked up after a key is taken out. -/
theorem Cells.get_erase (l : List (Nat × α)) (a b : Nat) :
    Cells.get (Cells.erase l a) b = if b = a then none else Cells.get l b := by
  fun_induction Cells.erase l a <;> grind [Cells.get]

/-- An entry after one is put in is that one or was there. -/
theorem Cells.mem_set {l : List (Nat × α)} {a : Nat} {v : α} {e : Nat × α} (h : e ∈ Cells.set l a v) :
    e = (a, v) ∨ e ∈ l := by
  fun_induction Cells.set l a v <;> grind

/-- An entry after a key is taken out was there, at another key. -/
theorem Cells.mem_erase {l : List (Nat × α)} {a : Nat} {e : Nat × α} (h : e ∈ Cells.erase l a) :
    e ∈ l ∧ e.1 ≠ a := by
  fun_induction Cells.erase l a <;> grind

/-- A value looked up is in the list. -/
theorem Cells.get_mem {l : List (Nat × α)} {a : Nat} {v : α} (h : Cells.get l a = some v) : (a, v) ∈ l := by
  fun_induction Cells.get l a <;> grind

/-- The order of keys, as an order of entries. -/
theorem Cells.sorted_iff (l : List (Nat × α)) :
    Cells.sorted l ↔ l.Pairwise (fun c d => c.1 < d.1) := by
  simp [Cells.sorted, List.pairwise_map]

/-- Putting an entry in keeps the order of keys. -/
theorem Cells.sorted_set {l : List (Nat × α)} (h : Cells.sorted l) (a : Nat) (v : α) :
    Cells.sorted (Cells.set l a v) := by
  rw [Cells.sorted_iff] at *
  fun_induction Cells.set l a v <;> grind [→ Cells.mem_set, List.pairwise_cons]

/-- Taking a key out keeps the order of keys. -/
theorem Cells.sorted_erase {l : List (Nat × α)} (h : Cells.sorted l) (a : Nat) :
    Cells.sorted (Cells.erase l a) := by
  have part : (Cells.erase l a).Sublist l := by
    clear h
    fun_induction Cells.erase l a <;> grind
  exact h.sublist (part.map Prod.fst)

/-- A byte read after a write: the byte written, or what was there. -/
theorem Memory.read_write (m : List Host.Cell) (a b : Nat) (v : BitVec 8) :
    Memory.read (Memory.write m a v) b = if b = a then v else Memory.read m b := by
  unfold Memory.read Memory.write
  split
  · next h => rw [Cells.get_erase]; split_ifs <;> simp_all
  · rw [Cells.get_set]; split_ifs <;> simp

/-- A write keeps the canonical form. -/
theorem Memory.wf_write {m : List Host.Cell} (h : Memory.wf m) (a : Nat) (v : BitVec 8) :
    Memory.wf (Memory.write m a v) := by
  unfold Memory.write
  split
  · exact ⟨Cells.sorted_erase h.1 a, fun c hc => h.2 c (Cells.mem_erase hc).1⟩
  · next hv =>
    refine ⟨Cells.sorted_set h.1 a v, fun c hc => ?_⟩
    rcases Cells.mem_set hc with rfl | hc'
    · exact hv
    · exact h.2 c hc'

/-- A write below a bound keeps every address below it. -/
theorem Memory.below_write {m : List Host.Cell} {n a : Nat} (h : Memory.below m n) (ha : a < n)
    (v : BitVec 8) : Memory.below (Memory.write m a v) n := by
  unfold Memory.write
  split
  · exact fun c hc => h c (Cells.mem_erase hc).1
  · intro c hc
    rcases Cells.mem_set hc with rfl | hc'
    · exact ha
    · exact h c hc'

/-- Building a memory from cells gives the canonical form, inside the bound. -/
theorem Memory.wf_ofCells (bound : Nat) (cells : List Host.Cell) :
    Memory.wf (Memory.ofCells bound cells) ∧ Memory.below (Memory.ofCells bound cells) bound := by
  unfold Memory.ofCells
  suffices h : ∀ m, Memory.wf m ∧ Memory.below m bound →
      Memory.wf (cells.foldl (fun m c => if c.1 < bound then Memory.write m c.1 c.2 else m) m) ∧
      Memory.below (cells.foldl (fun m c => if c.1 < bound then Memory.write m c.1 c.2 else m) m) bound by
    exact h [] ⟨⟨by simp [Cells.sorted], by simp⟩, by simp [Memory.below]⟩
  induction cells with
  | nil => exact fun m h => h
  | cons c cells ih =>
    intro m h
    refine ih _ ?_
    dsimp only
    split
    · next hc => exact ⟨Memory.wf_write h.1 _ _, Memory.below_write h.2 hc _⟩
    · exact h

end Sys2Proof.Machine
end

