-- ==== Sys2Proof/Laws/Encoding.lean ====
section
/-! SUPPORT. The words that the encoder lays out, as numbers, and the fields cut out of them. -/

namespace Sys2Proof

theorem append_toNat {m n : Nat} (a : BitVec m) (b : BitVec n) :
    (a ++ b).toNat = a.toNat * 2 ^ n + b.toNat := by
  rw [BitVec.toNat_append, ← Nat.shiftLeft_add_eq_or_of_lt b.isLt, Nat.shiftLeft_eq]

theorem field_toNat {n : Nat} (w : BitVec n) (lo k : Nat) :
    (w.extractLsb' lo k).toNat = w.toNat / 2 ^ lo % 2 ^ k := by
  rw [BitVec.extractLsb'_toNat, Nat.shiftRight_eq_div_pow]

namespace Layout

theorem r_toNat (f7 : BitVec 7) (rs2 rs1 : Reg) (f3 : BitVec 3) (rd : Reg) (op : BitVec 7) :
    (r f7 rs2 rs1 f3 rd op).toNat = ((((f7.toNat * 32 + rs2.toNat) * 32 + rs1.toNat) * 8 + f3.toNat) * 32
      + rd.toNat) * 128 + op.toNat := by
  refine (append_toNat (m := 25) (n := 7) _ _).trans ?_
  rw [append_toNat (m := 20) (n := 5), append_toNat (m := 17) (n := 3), append_toNat (m := 12) (n := 5),
    append_toNat (m := 7) (n := 5)]
  norm_num

theorem i_toNat (imm : BitVec 12) (rs1 : Reg) (f3 : BitVec 3) (rd : Reg) (op : BitVec 7) :
    (i imm rs1 f3 rd op).toNat = (((imm.toNat * 32 + rs1.toNat) * 8 + f3.toNat) * 32
      + rd.toNat) * 128 + op.toNat := by
  refine (append_toNat (m := 25) (n := 7) _ _).trans ?_
  rw [append_toNat (m := 20) (n := 5), append_toNat (m := 17) (n := 3), append_toNat (m := 12) (n := 5)]
  norm_num

theorem sh_toNat (shamt : BitVec 6) (rs1 : Reg) (f3 : BitVec 3) (rd : Reg) (op : BitVec 7) :
    (sh shamt rs1 f3 rd op).toNat = (((shamt.toNat * 32 + rs1.toNat) * 8 + f3.toNat) * 32
      + rd.toNat) * 128 + op.toNat := by
  refine (append_toNat (m := 25) (n := 7) _ _).trans ?_
  rw [append_toNat (m := 20) (n := 5), append_toNat (m := 17) (n := 3), append_toNat (m := 12) (n := 5),
    append_toNat (m := 6) (n := 6)]
  simp

theorem s_toNat (imm : BitVec 12) (rs2 rs1 : Reg) (f3 : BitVec 3) (op : BitVec 7) :
    (s imm rs2 rs1 f3 op).toNat = ((((imm.toNat / 32 % 128 * 32 + rs2.toNat) * 32 + rs1.toNat) * 8 + f3.toNat)
      * 32 + imm.toNat % 32) * 128 + op.toNat := by
  refine (append_toNat (m := 25) (n := 7) _ _).trans ?_
  rw [append_toNat (m := 20) (n := 5), append_toNat (m := 17) (n := 3), append_toNat (m := 12) (n := 5),
    append_toNat (m := 7) (n := 5), field_toNat, field_toNat]
  simp

theorem b_toNat (off : BitVec 12) (rs2 rs1 : Reg) (f3 : BitVec 3) (op : BitVec 7) :
    (b off rs2 rs1 f3 op).toNat = ((((((off.toNat / 2048 % 2 * 64 + off.toNat / 16 % 64) * 32 + rs2.toNat) * 32
      + rs1.toNat) * 8 + f3.toNat) * 16 + off.toNat % 16) * 2 + off.toNat / 1024 % 2) * 128 + op.toNat := by
  refine (append_toNat (m := 25) (n := 7) _ _).trans ?_
  rw [append_toNat (m := 24) (n := 1), append_toNat (m := 20) (n := 4), append_toNat (m := 17) (n := 3),
    append_toNat (m := 12) (n := 5), append_toNat (m := 7) (n := 5), append_toNat (m := 1) (n := 6)]
  simp only [field_toNat]
  simp

theorem u_toNat (imm20 : BitVec 20) (rd : Reg) (op : BitVec 7) :
    (u imm20 rd op).toNat = (imm20.toNat * 32 + rd.toNat) * 128 + op.toNat := by
  refine (append_toNat (m := 25) (n := 7) _ _).trans ?_
  rw [append_toNat (m := 20) (n := 5)]
  norm_num

theorem j_toNat (off : BitVec 20) (rd : Reg) (op : BitVec 7) :
    (j off rd op).toNat = ((((off.toNat / 524288 % 2 * 1024 + off.toNat % 1024) * 2 + off.toNat / 1024 % 2)
      * 256 + off.toNat / 2048 % 256) * 32 + rd.toNat) * 128 + op.toNat := by
  refine (append_toNat (m := 25) (n := 7) _ _).trans ?_
  rw [append_toNat (m := 20) (n := 5), append_toNat (m := 12) (n := 8), append_toNat (m := 11) (n := 1),
    append_toNat (m := 1) (n := 10)]
  simp only [field_toNat]
  simp

end Layout

namespace Field

theorem opcode_toNat (w : Insn) : (opcode w).toNat = w.toNat % 128 := by simp [opcode]
theorem rd_toNat (w : Insn) : (rd w).toNat = w.toNat / 128 % 32 := by
  rw [rd, field_toNat]
  norm_num
theorem funct3_toNat (w : Insn) : (funct3 w).toNat = w.toNat / 4096 % 8 := by
  rw [funct3, field_toNat]
  norm_num
theorem rs1_toNat (w : Insn) : (rs1 w).toNat = w.toNat / 32768 % 32 := by
  rw [rs1, field_toNat]
  norm_num
theorem rs2_toNat (w : Insn) : (rs2 w).toNat = w.toNat / 1048576 % 32 := by
  rw [rs2, field_toNat]
  norm_num
theorem funct7_toNat (w : Insn) : (funct7 w).toNat = w.toNat / 33554432 % 128 := by
  rw [funct7, field_toNat]
  norm_num
theorem funct6_toNat (w : Insn) : (funct6 w).toNat = w.toNat / 67108864 % 64 := by
  rw [funct6, field_toNat]
  norm_num
theorem shamt_toNat (w : Insn) : (shamt w).toNat = w.toNat / 1048576 % 64 := by
  rw [shamt, field_toNat]
  norm_num
theorem immI_toNat (w : Insn) : (immI w).toNat = w.toNat / 1048576 % 4096 := by
  rw [immI, field_toNat]
  norm_num
theorem immU_toNat (w : Insn) : (immU w).toNat = w.toNat / 4096 % 1048576 := by
  rw [immU, field_toNat]
  norm_num
theorem upper25_toNat (w : Insn) : (upper25 w).toNat = w.toNat / 128 % 33554432 := by
  rw [upper25, field_toNat]
  norm_num

theorem immS_toNat (w : Insn) : (immS w).toNat = w.toNat / 33554432 % 128 * 32 + w.toNat / 128 % 32 := by
  refine (append_toNat (m := 7) (n := 5) _ _).trans ?_
  simp only [field_toNat]
  simp

theorem cfId_toNat (w : Insn) : (cfId w).toNat = w.toNat / 33554432 % 128 * 8 + w.toNat / 4096 % 8 := by
  refine (append_toNat (m := 7) (n := 3) _ _).trans ?_
  simp only [field_toNat]
  simp

theorem offB_toNat (w : Insn) : (offB w).toNat = ((w.toNat / 2147483648 % 2 * 2 + w.toNat / 128 % 2) * 64
    + w.toNat / 33554432 % 64) * 16 + w.toNat / 256 % 16 := by
  refine (append_toNat (m := 8) (n := 4) _ _).trans ?_
  rw [append_toNat (m := 2) (n := 6), append_toNat (m := 1) (n := 1)]
  simp only [field_toNat]
  simp

theorem offJ_toNat (w : Insn) : (offJ w).toNat = ((w.toNat / 2147483648 % 2 * 256 + w.toNat / 4096 % 256) * 2
    + w.toNat / 1048576 % 2) * 1024 + w.toNat / 2097152 % 1024 := by
  refine (append_toNat (m := 10) (n := 10) _ _).trans ?_
  rw [append_toNat (m := 9) (n := 1), append_toNat (m := 1) (n := 8)]
  simp only [field_toNat]
  simp

end Field

/-! ### The fields of each layout -/

namespace Layout

theorem fields_r (f7 : BitVec 7) (a b : Reg) (f3 : BitVec 3) (rd : Reg) (op : BitVec 7) :
    Field.opcode (r f7 a b f3 rd op) = op ∧ Field.rd (r f7 a b f3 rd op) = rd ∧
    Field.funct3 (r f7 a b f3 rd op) = f3 ∧ Field.rs1 (r f7 a b f3 rd op) = b ∧
    Field.rs2 (r f7 a b f3 rd op) = a ∧ Field.funct7 (r f7 a b f3 rd op) = f7 := by
  have := f7.isLt; have := a.isLt; have := b.isLt; have := f3.isLt; have := rd.isLt; have := op.isLt
  and_intros <;> apply BitVec.eq_of_toNat_eq <;>
    simp only [Field.opcode_toNat, Field.rd_toNat, Field.funct3_toNat, Field.rs1_toNat, Field.rs2_toNat,
      Field.funct7_toNat, r_toNat] <;> omega

theorem fields_i (imm : BitVec 12) (b : Reg) (f3 : BitVec 3) (rd : Reg) (op : BitVec 7) :
    Field.opcode (i imm b f3 rd op) = op ∧ Field.rd (i imm b f3 rd op) = rd ∧
    Field.funct3 (i imm b f3 rd op) = f3 ∧ Field.rs1 (i imm b f3 rd op) = b ∧
    Field.immI (i imm b f3 rd op) = imm := by
  have := imm.isLt; have := b.isLt; have := f3.isLt; have := rd.isLt; have := op.isLt
  and_intros <;> apply BitVec.eq_of_toNat_eq <;>
    simp only [Field.opcode_toNat, Field.rd_toNat, Field.funct3_toNat, Field.rs1_toNat, Field.immI_toNat,
      i_toNat] <;> omega

theorem fields_sh (shamt : BitVec 6) (b : Reg) (f3 : BitVec 3) (rd : Reg) (op : BitVec 7) :
    Field.opcode (sh shamt b f3 rd op) = op ∧ Field.rd (sh shamt b f3 rd op) = rd ∧
    Field.funct3 (sh shamt b f3 rd op) = f3 ∧ Field.rs1 (sh shamt b f3 rd op) = b ∧
    Field.shamt (sh shamt b f3 rd op) = shamt ∧ Field.funct6 (sh shamt b f3 rd op) = 0#6 := by
  have := shamt.isLt; have := b.isLt; have := f3.isLt; have := rd.isLt; have := op.isLt
  and_intros <;> apply BitVec.eq_of_toNat_eq <;>
    simp only [Field.opcode_toNat, Field.rd_toNat, Field.funct3_toNat, Field.rs1_toNat, Field.shamt_toNat,
      Field.funct6_toNat, sh_toNat, BitVec.toNat_ofNat] <;> omega

theorem fields_s (imm : BitVec 12) (a b : Reg) (f3 : BitVec 3) (op : BitVec 7) :
    Field.opcode (s imm a b f3 op) = op ∧ Field.funct3 (s imm a b f3 op) = f3 ∧
    Field.rs1 (s imm a b f3 op) = b ∧ Field.rs2 (s imm a b f3 op) = a ∧
    Field.immS (s imm a b f3 op) = imm := by
  obtain ⟨h1, h2, h3, h4, h5, h6⟩ := fields_r (imm.extractLsb' 5 7) a b f3 (imm.extractLsb' 0 5) op
  refine ⟨h1, h3, h4, h5, ?_⟩
  show Field.funct7 (r (imm.extractLsb' 5 7) a b f3 (imm.extractLsb' 0 5) op) ++
    Field.rd (r (imm.extractLsb' 5 7) a b f3 (imm.extractLsb' 0 5) op) = imm
  rw [h6, h2]
  have := imm.isLt
  apply BitVec.eq_of_toNat_eq
  refine (append_toNat (m := 7) (n := 5) _ _).trans ?_
  simp only [field_toNat]
  omega

theorem b_eq_r (off : BitVec 12) (a c : Reg) (f3 : BitVec 3) (op : BitVec 7) :
    b off a c f3 op = r (off.extractLsb' 11 1 ++ off.extractLsb' 4 6) a c f3
      (off.extractLsb' 0 4 ++ off.extractLsb' 10 1) op := by
  apply BitVec.eq_of_toNat_eq
  rw [b_toNat, r_toNat]
  have h7 : (off.extractLsb' 11 1 ++ off.extractLsb' 4 6 : BitVec 7).toNat =
      off.toNat / 2048 % 2 * 64 + off.toNat / 16 % 64 := by
    refine (append_toNat (m := 1) (n := 6) _ _).trans ?_
    simp only [field_toNat]
    norm_num
  have h5 : (off.extractLsb' 0 4 ++ off.extractLsb' 10 1 : BitVec 5).toNat =
      off.toNat % 16 * 2 + off.toNat / 1024 % 2 := by
    refine (append_toNat (m := 4) (n := 1) _ _).trans ?_
    simp only [field_toNat]
    norm_num
  rw [h7, h5]
  ring

theorem offB_parts (w : Insn) : (Field.offB w).toNat =
    (((Field.funct7 w).toNat / 64 * 2 + (Field.rd w).toNat % 2) * 64 + (Field.funct7 w).toNat % 64) * 16 +
      (Field.rd w).toNat / 2 := by
  have := w.isLt
  rw [Field.offB_toNat, Field.funct7_toNat, Field.rd_toNat]
  have h1 : w.toNat / 2147483648 % 2 = w.toNat / 33554432 % 128 / 64 := by omega
  have h2 : w.toNat / 128 % 2 = w.toNat / 128 % 32 % 2 := by omega
  have h3 : w.toNat / 33554432 % 64 = w.toNat / 33554432 % 128 % 64 := by omega
  have h4 : w.toNat / 256 % 16 = w.toNat / 128 % 32 / 2 := by omega
  rw [h1, h2, h3, h4]

theorem fields_b (off : BitVec 12) (a c : Reg) (f3 : BitVec 3) (op : BitVec 7) :
    Field.opcode (b off a c f3 op) = op ∧ Field.funct3 (b off a c f3 op) = f3 ∧
    Field.rs1 (b off a c f3 op) = c ∧ Field.rs2 (b off a c f3 op) = a ∧
    Field.offB (b off a c f3 op) = off := by
  rw [b_eq_r]
  obtain ⟨h1, h2, h3, h4, h5, h6⟩ := fields_r (off.extractLsb' 11 1 ++ off.extractLsb' 4 6) a c f3
    (off.extractLsb' 0 4 ++ off.extractLsb' 10 1) op
  refine ⟨h1, h3, h4, h5, ?_⟩
  apply BitVec.eq_of_toNat_eq
  rw [offB_parts, h2, h6]
  have h7 : (off.extractLsb' 11 1 ++ off.extractLsb' 4 6 : BitVec 7).toNat =
      off.toNat / 2048 % 2 * 64 + off.toNat / 16 % 64 := by
    refine (append_toNat (m := 1) (n := 6) _ _).trans ?_
    simp only [field_toNat]
    norm_num
  have h5 : (off.extractLsb' 0 4 ++ off.extractLsb' 10 1 : BitVec 5).toNat =
      off.toNat % 16 * 2 + off.toNat / 1024 % 2 := by
    refine (append_toNat (m := 4) (n := 1) _ _).trans ?_
    simp only [field_toNat]
    norm_num
  have e : off.toNat = ((off.toNat / 2048 % 2 * 2 + off.toNat / 1024 % 2) * 64 + off.toNat / 16 % 64) * 16
      + off.toNat % 16 := by
    have := off.isLt
    have g1 : off.toNat / 16 = off.toNat / 1024 * 64 + off.toNat / 16 % 64 := by omega
    have g2 : off.toNat / 1024 = off.toNat / 2048 * 2 + off.toNat / 1024 % 2 := by omega
    have g3 : off.toNat / 2048 % 2 = off.toNat / 2048 := by omega
    have g4 : off.toNat = off.toNat / 16 * 16 + off.toNat % 16 := by omega
    rw [g3, ← g2, ← g1]
    exact g4
  have e2 : off.toNat / 1024 % 2 < 2 := by omega
  have e3 : off.toNat / 16 % 64 < 64 := by omega
  rw [h7, h5]
  generalize off.toNat / 2048 % 2 = p at *
  generalize off.toNat / 1024 % 2 = q at *
  generalize off.toNat / 16 % 64 = u at *
  generalize off.toNat % 16 = v at *
  have f1 : (p * 64 + u) / 64 = p := by omega
  have f2 : (p * 64 + u) % 64 = u := by omega
  have f3 : (v * 2 + q) % 2 = q := by omega
  have f4 : (v * 2 + q) / 2 = v := by omega
  rw [f1, f2, f3, f4, ← e]

theorem fields_u (imm20 : BitVec 20) (rd : Reg) (op : BitVec 7) :
    Field.opcode (u imm20 rd op) = op ∧ Field.rd (u imm20 rd op) = rd ∧
    Field.immU (u imm20 rd op) = imm20 := by
  have := imm20.isLt; have := rd.isLt; have := op.isLt
  and_intros <;> apply BitVec.eq_of_toNat_eq <;>
    simp only [Field.opcode_toNat, Field.rd_toNat, Field.immU_toNat, u_toNat] <;> omega

theorem offJ_parts (w : Insn) : (Field.offJ w).toNat =
    (((Field.immU w).toNat / 524288 * 256 + (Field.immU w).toNat % 256) * 2 +
      (Field.immU w).toNat / 256 % 2) * 1024 + (Field.immU w).toNat / 512 % 1024 := by
  have := w.isLt
  rw [Field.offJ_toNat, Field.immU_toNat]
  have h1 : w.toNat / 2147483648 % 2 = w.toNat / 4096 % 1048576 / 524288 := by omega
  have h2 : w.toNat / 4096 % 256 = w.toNat / 4096 % 1048576 % 256 := by omega
  have h3 : w.toNat / 1048576 % 2 = w.toNat / 4096 % 1048576 / 256 % 2 := by omega
  have h4 : w.toNat / 2097152 % 1024 = w.toNat / 4096 % 1048576 / 512 % 1024 := by omega
  rw [h1, h2, h3, h4]

theorem fields_j (off : BitVec 20) (rd : Reg) (op : BitVec 7) :
    Field.opcode (j off rd op) = op ∧ Field.rd (j off rd op) = rd ∧ Field.offJ (j off rd op) = off := by
  obtain ⟨h1, h2, h3⟩ := fields_u (off.extractLsb' 19 1 ++ off.extractLsb' 0 10 ++ off.extractLsb' 10 1 ++
    off.extractLsb' 11 8) rd op
  refine ⟨h1, h2, ?_⟩
  apply BitVec.eq_of_toNat_eq
  refine (offJ_parts _).trans ?_
  rw [show Field.immU (j off rd op) = _ from h3]
  have h : (off.extractLsb' 19 1 ++ off.extractLsb' 0 10 ++ off.extractLsb' 10 1 ++
      off.extractLsb' 11 8 : BitVec 20).toNat =
      ((off.toNat / 524288 % 2 * 1024 + off.toNat % 1024) * 2 + off.toNat / 1024 % 2) * 256 +
        off.toNat / 2048 % 256 := by
    refine (append_toNat (m := 12) (n := 8) _ _).trans ?_
    rw [append_toNat (m := 11) (n := 1), append_toNat (m := 1) (n := 10)]
    simp only [field_toNat]
    norm_num
  have e : off.toNat = ((off.toNat / 524288 % 2 * 256 + off.toNat / 2048 % 256) * 2 + off.toNat / 1024 % 2) * 1024
      + off.toNat % 1024 := by
    have := off.isLt
    have g1 : off.toNat / 2048 = off.toNat / 524288 * 256 + off.toNat / 2048 % 256 := by omega
    have g2 : off.toNat / 1024 = off.toNat / 2048 * 2 + off.toNat / 1024 % 2 := by omega
    have g3 : off.toNat / 524288 % 2 = off.toNat / 524288 := by omega
    have g4 : off.toNat = off.toNat / 1024 * 1024 + off.toNat % 1024 := by omega
    rw [g3, ← g1, ← g2]
    exact g4
  have e1 : off.toNat / 524288 % 2 < 2 := by omega
  have e2 : off.toNat / 2048 % 256 < 256 := by omega
  have e3 : off.toNat / 1024 % 2 < 2 := by omega
  have e4 : off.toNat % 1024 < 1024 := by omega
  rw [h]
  generalize off.toNat / 524288 % 2 = p at *
  generalize off.toNat / 2048 % 256 = q at *
  generalize off.toNat / 1024 % 2 = u at *
  generalize off.toNat % 1024 = v at *
  have f1 : (((p * 1024 + v) * 2 + u) * 256 + q) / 524288 = p := by omega
  have f2 : (((p * 1024 + v) * 2 + u) * 256 + q) % 256 = q := by omega
  have f3 : (((p * 1024 + v) * 2 + u) * 256 + q) / 256 = (p * 1024 + v) * 2 + u := by omega
  have f4 : (((p * 1024 + v) * 2 + u) * 256 + q) / 512 = p * 1024 + v := by omega
  have f5 : ((p * 1024 + v) * 2 + u) % 2 = u := by omega
  have f6 : (p * 1024 + v) % 1024 = v := by
    rw [Nat.add_comm, Nat.add_mul_mod_self_right]
    exact Nat.mod_eq_of_lt e4
  rw [f1, f2, f3, f4, f5, f6, ← e]

theorem fields_cf (f : CfId) (a b mid : Reg) (op : BitVec 7) :
    Field.opcode (cf f a b mid op) = op ∧ Field.rd (cf f a b mid op) = mid ∧
    Field.rs1 (cf f a b mid op) = b ∧ Field.rs2 (cf f a b mid op) = a ∧ Field.cfId (cf f a b mid op) = f := by
  obtain ⟨hop, hmid, hlow, hb, ha, hhigh⟩ := fields_r (f.extractLsb' 3 7) a b (f.extractLsb' 0 3) mid op
  refine ⟨hop, hmid, hb, ha, ?_⟩
  show Field.funct7 (r (f.extractLsb' 3 7) a b (f.extractLsb' 0 3) mid op) ++
    Field.funct3 (r (f.extractLsb' 3 7) a b (f.extractLsb' 0 3) mid op) = f
  rw [hhigh, hlow]
  have := f.isLt
  apply BitVec.eq_of_toNat_eq
  refine (append_toNat (m := 7) (n := 3) _ _).trans ?_
  simp only [field_toNat]
  omega

end Layout

/-- The words of 25 upper bits and a major opcode. -/
theorem fields_upper25 (k : BitVec 25) (op : BitVec 7) :
    Field.opcode (k ++ op) = op ∧ Field.upper25 (k ++ op) = k ∧ Field.rd (k ++ op) = k.extractLsb' 0 5 ∧
    Field.rs1 (k ++ op) = k.extractLsb' 8 5 ∧ Field.rs2 (k ++ op) = k.extractLsb' 13 5 ∧
    Field.cfId (k ++ op) = k.extractLsb' 18 7 ++ k.extractLsb' 5 3 := by
  have := k.isLt; have := op.isLt
  have h : (k ++ op : Insn).toNat = k.toNat * 128 + op.toNat :=
    (append_toNat (m := 25) (n := 7) k op).trans (by norm_num)
  have h2 : (k.extractLsb' 18 7 ++ k.extractLsb' 5 3 : CfId).toNat =
      k.toNat / 262144 % 128 * 8 + k.toNat / 32 % 8 := by
    refine (append_toNat (m := 7) (n := 3) _ _).trans ?_
    simp only [field_toNat]
    simp
  and_intros <;> apply BitVec.eq_of_toNat_eq <;>
    simp only [Field.opcode_toNat, Field.upper25_toNat, Field.rd_toNat, Field.rs1_toNat, Field.rs2_toNat,
      Field.cfId_toNat, field_toNat, h, h2] <;> omega

/-- Cutting the fields of the flex form out of the 25 upper bits of a word is cutting them out of the word (R111). -/
theorem upper25_fields (w : Insn) :
    (Field.upper25 w).extractLsb' 18 7 ++ (Field.upper25 w).extractLsb' 5 3 = Field.cfId w ∧
    (Field.upper25 w).extractLsb' 8 5 = Field.rs1 w ∧ (Field.upper25 w).extractLsb' 13 5 = Field.rs2 w := by
  have := w.isLt
  and_intros <;> apply BitVec.eq_of_toNat_eq
  · refine (append_toNat (m := 7) (n := 3) _ _).trans ?_
    simp only [field_toNat, Field.upper25_toNat, Field.cfId_toNat]
    omega
  all_goals
    simp only [field_toNat, Field.upper25_toNat, Field.rs1_toNat, Field.rs2_toNat]
    omega

/-- The bytes of a word, put together again, are the word. -/
@[simp] theorem wordOfBytes_bytesOfWord (w : Insn) :
    wordOfBytes (w.extractLsb' 0 8) (w.extractLsb' 8 8) (w.extractLsb' 16 8) (w.extractLsb' 24 8) = w := by
  apply BitVec.eq_of_toNat_eq
  refine (append_toNat (m := 24) (n := 8) _ _).trans ?_
  rw [append_toNat (m := 16) (n := 8), append_toNat (m := 8) (n := 8)]
  simp only [field_toNat]
  have := w.isLt
  omega

theorem decode_bytesOfWord (cfg : Config) (w : Insn) : decode cfg (bytesOfWord w) = decodeWord cfg w := by
  simp [decode, bytesOfWord]

end Sys2Proof
end

