-- ==== Sys2Proof/Laws/Config.lean ====
section
/-! SUPPORT. The laws that a well-formed configuration asks of its extensions, for the two test extensions and the test
layout of the state status word (spec/95_test_vectors.md part 2). -/

namespace Sys2Proof

open Sys2Proof.Machine

/-- A result agrees with itself. -/
theorem ExtConfig.Agree.same (x : Xlen) (cx : ExtConfig) (r : CxResult) : ExtConfig.Agree x Eq cx cx r r :=
  ⟨rfl, rfl, rfl⟩

/-- An extension is the same extension as itself. -/
theorem ExtConfig.SameExtension.refl (x : Xlen) (cx : ExtConfig) : cx.SameExtension x cx where
  stateful := rfl
  pureCf := fun _ _ _ _ _ _ _ => ⟨rfl, rfl⟩
  constCsr := fun _ _ _ _ _ _ => ⟨rfl, rfl⟩
  contexts := fun _ => ⟨Eq, rfl, fun p _ h => h ▸
    ⟨fun f _ _ d0 d1 insn => .same x cx (cx.cf f d0 d1 insn p.1 p.2),
      fun a _ _ fn d0 => .same x cx (cx.csr a fn d0 p.1 p.2)⟩⟩

/-- A state of TCX is two 32-bit words. -/
theorem tcxState_eq (acc cnt : BitVec 32) :
    tcxAcc (tcxState acc cnt) = acc ∧ tcxCnt (tcxState acc cnt) = cnt := by
  constructor <;> simp [tcxAcc, tcxCnt, tcxState]

/-- The functions of TCX leave a state of TCX (R8). -/
theorem ExtConfig.stateLaws_of_tcx {cx : ExtConfig} (h : cx.kind = .tcx) : cx.StateLaws := by
  have held : ∀ acc cnt, cx.holds (tcxState acc cnt) = tcxState acc cnt := by
    intro acc cnt
    simp [ExtConfig.holds, h, tcxState_eq]
  constructor
  · intro st
    rw [show cx.holds st = tcxState (tcxAcc st) (tcxCnt st) by simp [ExtConfig.holds, h], held]
  · rw [show cx.initial = tcxState 0 0 by simp [ExtConfig.initial, h], held]
  · intro st hs f _ d0 d1 insn err
    rw [show cx.cf f d0 d1 insn st err = tcxCf f d0 d1 st err by simp [ExtConfig.cf, h]]
    unfold tcxCf
    split
    · exact held _ _
    · split <;> exact hs
  · intro st hs a _ fn d0 err
    rw [show cx.csr a fn d0 st err = { data := 0, status := .ok, st := st, err := err } by simp [ExtConfig.csr, h]]
    exact hs
  · intro st hs v
    rw [show cx.sizeWrite st v = st by simp [ExtConfig.sizeWrite, h], hs]
  · intro st hs i _ w
    rw [show cx.loadWord st i w = tcxLoad st i w by simp [ExtConfig.loadWord, h]]
    unfold tcxLoad
    split
    · exact held _ _
    · exact held _ _
    · exact hs

/-- Reloading the words of a saved TCX context restores its state (R255). -/
theorem ExtConfig.reload_of_tcx {cx : ExtConfig} (h : cx.kind = .tcx) (x : Xlen) (st st' : CxState)
    (hs : cx.holds st = st) : cx.loadWords st' 0 (cx.blob x st) = st := by
  have hsize : ∀ s, (cx.size s).toNat = 2 := fun s => by simp [ExtConfig.size, h]
  have hload : ∀ s i w, cx.loadWord s i w = tcxLoad s i w := fun s i w => by simp [ExtConfig.loadWord, h]
  have hsave : ∀ i, cx.saveWord st i = tcxSave st i := fun i => by simp [ExtConfig.saveWord, h]
  have hst : tcxState (tcxAcc st) (tcxCnt st) = st := by simpa [ExtConfig.holds, h] using hs
  have hn : ∀ v : BitVec 32, (norm x (v.setWidth 64)).setWidth 32 = v := fun v => by
    rw [show norm x (v.setWidth 64) = zextX v from norm_zextX32 x v]
    simp [zextX]
  have hb : cx.blob x st = [norm x (tcxSave st 0), norm x (tcxSave st 1)] := by
    unfold ExtConfig.blob
    rw [hsize]
    simp [List.range_succ, hsave]
  rw [hb]
  simp only [ExtConfig.loadWords, hsize, hload, tcxLoad, tcxSave, hn, tcxState_eq, Nat.zero_lt_two, Nat.one_lt_two,
    if_true, Nat.zero_add, hst]

/-- The test layout keeps `cs`, `size` and an error of at most eight bits (R282). -/
theorem statusUnpack_pack_test {cfg : Config} {cx : ExtConfig} (hl : cfg.statusLayout = .test) (hw : cx.errorW ≤ 8)
    (cs : BitVec 2) (size : BitVec 16) (error : Word) (he : cx.errBits cfg.xlen error = error) :
    statusUnpack cfg (statusPack cfg cs size error) = (cs, size, error) := by
  have hlt : error.toNat < 2 ^ 8 :=
    he ▸ (errBits_lt cx cfg.xlen error).trans_le (Nat.pow_le_pow_right Nat.two_pos hw)
  have herr : (error.setWidth 8).toNat = error.toNat := by
    rw [BitVec.toNat_setWidth, Nat.mod_eq_of_lt hlt]
  have hp : (statusPack cfg cs size error).toNat
      = (cs.toNat * 2048 + error.toNat) * 65536 + size.toNat := by
    have hc := cs.isLt
    have hz := size.isLt
    simp only [statusPack, hl, zextX]
    rw [BitVec.toNat_setWidth, append_toNat (m := 16) (n := 16), append_toNat (m := 8) (n := 8),
      append_toNat (m := 5) (n := 3), append_toNat (m := 3) (n := 2), herr]
    simp
    omega
  have hc := cs.isLt
  have hz := size.isLt
  simp only [statusUnpack, hl, Prod.mk.injEq]
  and_intros <;> apply BitVec.eq_of_toNat_eq <;>
    simp only [zextX, BitVec.toNat_setWidth, field_toNat, hp] <;> omega

/-- The reference policy protects the page at 0x2000 (R324, R363), whatever level makes the implied load. -/
theorem Config.protectsTable_reference {cfg : Config} (hp : cfg.memPolicy = MemPolicy.reference)
    (ht : tableBits cfg 0x2000 = 0x2000) (hm : cxidxPriv cfg .user ≠ .user) : cfg.ProtectsTable 0x2000 where
  table := ht
  user := by
    intro kind hk a hl hh n hn
    have inside : (0x2000 ≤ a.toNat ∧ a.toNat < 0x3000) ∧ 0x2000 < a.toNat + n := by
      have first : 0x2000 ≤ a.toNat := hl
      exact ⟨⟨first, hh⟩, by omega⟩
    cases kind <;> simp_all [memCheck, MemPolicy.reference, DenyRange.meets]
  implied := by
    intro i
    have h : ((Priv.user == cxidxPriv cfg .user)) = false := beq_eq_false_iff_ne.mpr hm.symm
    simp [memCheck, hp, MemPolicy.reference, DenyRange.meets, h]

end Sys2Proof
end

