-- ==== Sys2Proof/Laws/Forms.lean ====
section
/-! SUPPORT. Each form of an instruction is one call of the shared operation it stands for. -/

namespace Sys2Proof.Machine

/-- Every CSR instruction is the common execution with its access function and source (R161, R165 to R170). -/
theorem exec_csrForm {s : State} {i : Instr} {a : CsrAddr} {rd : Reg} {fn : CsrFn} {src : Word}
    (h : CsrForm s i a rd fn src) : exec i s = .next (s.csrCommon (encode s.cfg i) a fn src rd) := by
  cases h <;> rfl

/-- Every custom function instruction is a custom operation with its CF_ID and operands (R143 to R146). -/
theorem exec_cfForm {s : State} {i : Instr} {f : CfId} {d0 d1 : Word} {dest : Option Reg}
    (h : CfForm s i f d0 d1 dest) :
    ∃ k, k ≠ OpKind.cf3 ∧ k ≠ OpKind.csrAcc ∧
      exec i s = .next (s.customOp k (encode s.cfg i) (.cf f) d0 d1 dest) := by
  cases h
  case imm => exact ⟨.cf1, by decide, by decide, rfl⟩
  case flex => exact ⟨.cf2, by decide, by decide, rfl⟩
  case flex25 => exact ⟨.cf2, by decide, by decide, rfl⟩
  all_goals exact ⟨.cf0, by decide, by decide, rfl⟩

/-- The checks of the address pass exactly where `csrAllowed` holds (R164). -/
theorem csrDenied_iff (a : CsrAddr) (fn : CsrFn) (p : Priv) :
    csrDenied a (fn != .read) p = false ↔ csrAllowed a fn p := by
  cases fn <;> simp [csrDenied, csrAllowed]

/-- A CSR instruction at a custom CSR address that passes the checks is a custom operation (R161, R163). -/
theorem csrCommon_custom {s : State} {a : CsrAddr} {fn : CsrFn} (insn : Insn) (src : Word) (rd : Reg)
    (ha : isCustomCsr a = true) (hp : csrAllowed a fn s.priv) :
    s.csrCommon insn a fn src rd = s.customOp .csrAcc insn (.csr fn) src (csrOperand a) (some rd) := by
  have hn : cxIsaCsr? a = none := by
    unfold isCustomCsr at ha
    simp only [Bool.and_eq_true, Option.isNone_iff_eq_none] at ha
    exact ha.2
  have hc : csrClass a = .custom := by
    unfold csrClass
    rw [hn]
    simp [ha]
  unfold State.csrCommon
  rw [(csrDenied_iff a fn s.priv).mpr hp, hc]
  rfl

/-- Every custom operation is one call of `customOp`; its kind is custom-3 for the custom-3 words alone (R201). -/
theorem exec_customOpForm {s : State} {i : Instr} {dest : Option Reg} (h : CustomOpForm s i dest) :
    ∃ k f d0 d1, exec i s = .next (s.customOp k (encode s.cfg i) f d0 d1 dest) ∧
      (k = OpKind.cf3 ↔ ∃ raw, i = .custom3 raw) := by
  cases h with
  | cf h =>
    obtain ⟨k, h3, _, e⟩ := exec_cfForm h
    refine ⟨k, _, _, _, e, ?_⟩
    constructor
    · exact fun c => absurd c h3
    · rintro ⟨raw, rfl⟩
      cases h
  | custom3 raw => exact ⟨.cf3, _, _, _, rfl, by simp⟩
  | csr h ha hp =>
    refine ⟨.csrAcc, _, _, _, (exec_csrForm h).trans (by rw [csrCommon_custom _ _ _ ha hp]), ?_⟩
    constructor
    · intro c; cases c
    · rintro ⟨raw, rfl⟩
      cases h

end Sys2Proof.Machine
end

