-- ==== Sys2Proof/Laws/State.lean ====
section
/-! SUPPORT. For each update of the state, one lemma per field: unchanged, or the new value. -/

namespace Sys2Proof.Machine

variable (s : State)

/-! ### `State.setX` -/

@[simp] theorem setX_pc (i : Reg) (v : Word) : (s.setX i v).pc = s.pc := by unfold State.setX; split <;> rfl
@[simp] theorem setX_priv (i : Reg) (v : Word) : (s.setX i v).priv = s.priv := by unfold State.setX; split <;> rfl
@[simp] theorem setX_mcxSelector (i : Reg) (v : Word) : (s.setX i v).mcxSelector = s.mcxSelector := by unfold State.setX; split <;> rfl
@[simp] theorem setX_cxStatus (i : Reg) (v : Word) : (s.setX i v).cxStatus = s.cxStatus := by unfold State.setX; split <;> rfl
@[simp] theorem setX_mcxTable (i : Reg) (v : Word) : (s.setX i v).mcxTable = s.mcxTable := by unfold State.setX; split <;> rfl
@[simp] theorem setX_cxIndex (i : Reg) (v : Word) : (s.setX i v).cxIndex = s.cxIndex := by unfold State.setX; split <;> rfl
@[simp] theorem setX_mstatus (i : Reg) (v : Word) : (s.setX i v).mstatus = s.mstatus := by unfold State.setX; split <;> rfl
@[simp] theorem setX_mtvec (i : Reg) (v : Word) : (s.setX i v).mtvec = s.mtvec := by unfold State.setX; split <;> rfl
@[simp] theorem setX_mscratch (i : Reg) (v : Word) : (s.setX i v).mscratch = s.mscratch := by unfold State.setX; split <;> rfl
@[simp] theorem setX_mepc (i : Reg) (v : Word) : (s.setX i v).mepc = s.mepc := by unfold State.setX; split <;> rfl
@[simp] theorem setX_mcause (i : Reg) (v : Word) : (s.setX i v).mcause = s.mcause := by unfold State.setX; split <;> rfl
@[simp] theorem setX_mtval (i : Reg) (v : Word) : (s.setX i v).mtval = s.mtval := by unfold State.setX; split <;> rfl
@[simp] theorem setX_cfg (i : Reg) (v : Word) : (s.setX i v).cfg = s.cfg := by unfold State.setX; split <;> rfl
@[simp] theorem setX_text (i : Reg) (v : Word) : (s.setX i v).text = s.text := by unfold State.setX; split <;> rfl
@[simp] theorem setX_mem (i : Reg) (v : Word) : (s.setX i v).mem = s.mem := by unfold State.setX; split <;> rfl
@[simp] theorem setX_ctxs (i : Reg) (v : Word) : (s.setX i v).ctxs = s.ctxs := by unfold State.setX; split <;> rfl
@[simp] theorem setX_draws (i : Reg) (v : Word) : (s.setX i v).draws = s.draws := by unfold State.setX; split <;> rfl

/-! ### `State.setDest` -/

@[simp] theorem setDest_pc (d : Option Reg) (v : Word) : (s.setDest d v).pc = s.pc := by cases d <;> simp [State.setDest]
@[simp] theorem setDest_priv (d : Option Reg) (v : Word) : (s.setDest d v).priv = s.priv := by cases d <;> simp [State.setDest]
@[simp] theorem setDest_mcxSelector (d : Option Reg) (v : Word) : (s.setDest d v).mcxSelector = s.mcxSelector := by cases d <;> simp [State.setDest]
@[simp] theorem setDest_cxStatus (d : Option Reg) (v : Word) : (s.setDest d v).cxStatus = s.cxStatus := by cases d <;> simp [State.setDest]
@[simp] theorem setDest_mcxTable (d : Option Reg) (v : Word) : (s.setDest d v).mcxTable = s.mcxTable := by cases d <;> simp [State.setDest]
@[simp] theorem setDest_cxIndex (d : Option Reg) (v : Word) : (s.setDest d v).cxIndex = s.cxIndex := by cases d <;> simp [State.setDest]
@[simp] theorem setDest_mstatus (d : Option Reg) (v : Word) : (s.setDest d v).mstatus = s.mstatus := by cases d <;> simp [State.setDest]
@[simp] theorem setDest_mtvec (d : Option Reg) (v : Word) : (s.setDest d v).mtvec = s.mtvec := by cases d <;> simp [State.setDest]
@[simp] theorem setDest_mscratch (d : Option Reg) (v : Word) : (s.setDest d v).mscratch = s.mscratch := by cases d <;> simp [State.setDest]
@[simp] theorem setDest_mepc (d : Option Reg) (v : Word) : (s.setDest d v).mepc = s.mepc := by cases d <;> simp [State.setDest]
@[simp] theorem setDest_mcause (d : Option Reg) (v : Word) : (s.setDest d v).mcause = s.mcause := by cases d <;> simp [State.setDest]
@[simp] theorem setDest_mtval (d : Option Reg) (v : Word) : (s.setDest d v).mtval = s.mtval := by cases d <;> simp [State.setDest]
@[simp] theorem setDest_cfg (d : Option Reg) (v : Word) : (s.setDest d v).cfg = s.cfg := by cases d <;> simp [State.setDest]
@[simp] theorem setDest_text (d : Option Reg) (v : Word) : (s.setDest d v).text = s.text := by cases d <;> simp [State.setDest]
@[simp] theorem setDest_mem (d : Option Reg) (v : Word) : (s.setDest d v).mem = s.mem := by cases d <;> simp [State.setDest]
@[simp] theorem setDest_ctxs (d : Option Reg) (v : Word) : (s.setDest d v).ctxs = s.ctxs := by cases d <;> simp [State.setDest]
@[simp] theorem setDest_draws (d : Option Reg) (v : Word) : (s.setDest d v).draws = s.draws := by cases d <;> simp [State.setDest]

/-! ### `State.setPc` -/

@[simp] theorem setPc_x (t : Word) : (s.setPc t).x = s.x := rfl
@[simp] theorem setPc_pc (t : Word) : (s.setPc t).pc = norm s.cfg.xlen t := rfl
@[simp] theorem setPc_priv (t : Word) : (s.setPc t).priv = s.priv := rfl
@[simp] theorem setPc_mcxSelector (t : Word) : (s.setPc t).mcxSelector = s.mcxSelector := rfl
@[simp] theorem setPc_cxStatus (t : Word) : (s.setPc t).cxStatus = s.cxStatus := rfl
@[simp] theorem setPc_mcxTable (t : Word) : (s.setPc t).mcxTable = s.mcxTable := rfl
@[simp] theorem setPc_cxIndex (t : Word) : (s.setPc t).cxIndex = s.cxIndex := rfl
@[simp] theorem setPc_mstatus (t : Word) : (s.setPc t).mstatus = s.mstatus := rfl
@[simp] theorem setPc_mtvec (t : Word) : (s.setPc t).mtvec = s.mtvec := rfl
@[simp] theorem setPc_mscratch (t : Word) : (s.setPc t).mscratch = s.mscratch := rfl
@[simp] theorem setPc_mepc (t : Word) : (s.setPc t).mepc = s.mepc := rfl
@[simp] theorem setPc_mcause (t : Word) : (s.setPc t).mcause = s.mcause := rfl
@[simp] theorem setPc_mtval (t : Word) : (s.setPc t).mtval = s.mtval := rfl
@[simp] theorem setPc_cfg (t : Word) : (s.setPc t).cfg = s.cfg := rfl
@[simp] theorem setPc_text (t : Word) : (s.setPc t).text = s.text := rfl
@[simp] theorem setPc_mem (t : Word) : (s.setPc t).mem = s.mem := rfl
@[simp] theorem setPc_ctxs (t : Word) : (s.setPc t).ctxs = s.ctxs := rfl
@[simp] theorem setPc_draws (t : Word) : (s.setPc t).draws = s.draws := rfl

/-! ### `State.advance` -/

@[simp] theorem advance_x : s.advance.x = s.x := rfl
@[simp] theorem advance_pc : s.advance.pc = norm s.cfg.xlen (s.pc + 4) := rfl
@[simp] theorem advance_priv : s.advance.priv = s.priv := rfl
@[simp] theorem advance_mcxSelector : s.advance.mcxSelector = s.mcxSelector := rfl
@[simp] theorem advance_cxStatus : s.advance.cxStatus = s.cxStatus := rfl
@[simp] theorem advance_mcxTable : s.advance.mcxTable = s.mcxTable := rfl
@[simp] theorem advance_cxIndex : s.advance.cxIndex = s.cxIndex := rfl
@[simp] theorem advance_mstatus : s.advance.mstatus = s.mstatus := rfl
@[simp] theorem advance_mtvec : s.advance.mtvec = s.mtvec := rfl
@[simp] theorem advance_mscratch : s.advance.mscratch = s.mscratch := rfl
@[simp] theorem advance_mepc : s.advance.mepc = s.mepc := rfl
@[simp] theorem advance_mcause : s.advance.mcause = s.mcause := rfl
@[simp] theorem advance_mtval : s.advance.mtval = s.mtval := rfl
@[simp] theorem advance_cfg : s.advance.cfg = s.cfg := rfl
@[simp] theorem advance_text : s.advance.text = s.text := rfl
@[simp] theorem advance_mem : s.advance.mem = s.mem := rfl
@[simp] theorem advance_ctxs : s.advance.ctxs = s.ctxs := rfl
@[simp] theorem advance_draws : s.advance.draws = s.draws := rfl

/-! ### `State.drawn` -/

@[simp] theorem drawn_x : s.drawn.x = s.x := rfl
@[simp] theorem drawn_pc : s.drawn.pc = s.pc := rfl
@[simp] theorem drawn_priv : s.drawn.priv = s.priv := rfl
@[simp] theorem drawn_mcxSelector : s.drawn.mcxSelector = s.mcxSelector := rfl
@[simp] theorem drawn_cxStatus : s.drawn.cxStatus = s.cxStatus := rfl
@[simp] theorem drawn_mcxTable : s.drawn.mcxTable = s.mcxTable := rfl
@[simp] theorem drawn_cxIndex : s.drawn.cxIndex = s.cxIndex := rfl
@[simp] theorem drawn_mstatus : s.drawn.mstatus = s.mstatus := rfl
@[simp] theorem drawn_mtvec : s.drawn.mtvec = s.mtvec := rfl
@[simp] theorem drawn_mscratch : s.drawn.mscratch = s.mscratch := rfl
@[simp] theorem drawn_mepc : s.drawn.mepc = s.mepc := rfl
@[simp] theorem drawn_mcause : s.drawn.mcause = s.mcause := rfl
@[simp] theorem drawn_mtval : s.drawn.mtval = s.mtval := rfl
@[simp] theorem drawn_cfg : s.drawn.cfg = s.cfg := rfl
@[simp] theorem drawn_text : s.drawn.text = s.text := rfl
@[simp] theorem drawn_mem : s.drawn.mem = s.mem := rfl
@[simp] theorem drawn_ctxs : s.drawn.ctxs = s.ctxs := rfl
@[simp] theorem drawn_draws : s.drawn.draws = s.draws + 1 := rfl

/-! ### `State.setFlag` -/

@[simp] theorem setFlag_x (f : Option CxFlag) : (s.setFlag f).x = s.x := by cases f <;> rfl
@[simp] theorem setFlag_pc (f : Option CxFlag) : (s.setFlag f).pc = s.pc := by cases f <;> rfl
@[simp] theorem setFlag_priv (f : Option CxFlag) : (s.setFlag f).priv = s.priv := by cases f <;> rfl
@[simp] theorem setFlag_mcxSelector (f : Option CxFlag) : (s.setFlag f).mcxSelector = s.mcxSelector := by cases f <;> rfl
@[simp] theorem setFlag_mcxTable (f : Option CxFlag) : (s.setFlag f).mcxTable = s.mcxTable := by cases f <;> rfl
@[simp] theorem setFlag_cxIndex (f : Option CxFlag) : (s.setFlag f).cxIndex = s.cxIndex := by cases f <;> rfl
@[simp] theorem setFlag_mstatus (f : Option CxFlag) : (s.setFlag f).mstatus = s.mstatus := by cases f <;> rfl
@[simp] theorem setFlag_mtvec (f : Option CxFlag) : (s.setFlag f).mtvec = s.mtvec := by cases f <;> rfl
@[simp] theorem setFlag_mscratch (f : Option CxFlag) : (s.setFlag f).mscratch = s.mscratch := by cases f <;> rfl
@[simp] theorem setFlag_mepc (f : Option CxFlag) : (s.setFlag f).mepc = s.mepc := by cases f <;> rfl
@[simp] theorem setFlag_mcause (f : Option CxFlag) : (s.setFlag f).mcause = s.mcause := by cases f <;> rfl
@[simp] theorem setFlag_mtval (f : Option CxFlag) : (s.setFlag f).mtval = s.mtval := by cases f <;> rfl
@[simp] theorem setFlag_cfg (f : Option CxFlag) : (s.setFlag f).cfg = s.cfg := by cases f <;> rfl
@[simp] theorem setFlag_text (f : Option CxFlag) : (s.setFlag f).text = s.text := by cases f <;> rfl
@[simp] theorem setFlag_mem (f : Option CxFlag) : (s.setFlag f).mem = s.mem := by cases f <;> rfl
@[simp] theorem setFlag_ctxs (f : Option CxFlag) : (s.setFlag f).ctxs = s.ctxs := by cases f <;> rfl
@[simp] theorem setFlag_draws (f : Option CxFlag) : (s.setFlag f).draws = s.draws := by cases f <;> rfl

/-! ### `State.setByte` -/

@[simp] theorem setByte_x (a : Word) (k : Nat) (b : BitVec 8) : (s.setByte a k b).x = s.x := rfl
@[simp] theorem setByte_pc (a : Word) (k : Nat) (b : BitVec 8) : (s.setByte a k b).pc = s.pc := rfl
@[simp] theorem setByte_priv (a : Word) (k : Nat) (b : BitVec 8) : (s.setByte a k b).priv = s.priv := rfl
@[simp] theorem setByte_mcxSelector (a : Word) (k : Nat) (b : BitVec 8) : (s.setByte a k b).mcxSelector = s.mcxSelector := rfl
@[simp] theorem setByte_cxStatus (a : Word) (k : Nat) (b : BitVec 8) : (s.setByte a k b).cxStatus = s.cxStatus := rfl
@[simp] theorem setByte_mcxTable (a : Word) (k : Nat) (b : BitVec 8) : (s.setByte a k b).mcxTable = s.mcxTable := rfl
@[simp] theorem setByte_cxIndex (a : Word) (k : Nat) (b : BitVec 8) : (s.setByte a k b).cxIndex = s.cxIndex := rfl
@[simp] theorem setByte_mstatus (a : Word) (k : Nat) (b : BitVec 8) : (s.setByte a k b).mstatus = s.mstatus := rfl
@[simp] theorem setByte_mtvec (a : Word) (k : Nat) (b : BitVec 8) : (s.setByte a k b).mtvec = s.mtvec := rfl
@[simp] theorem setByte_mscratch (a : Word) (k : Nat) (b : BitVec 8) : (s.setByte a k b).mscratch = s.mscratch := rfl
@[simp] theorem setByte_mepc (a : Word) (k : Nat) (b : BitVec 8) : (s.setByte a k b).mepc = s.mepc := rfl
@[simp] theorem setByte_mcause (a : Word) (k : Nat) (b : BitVec 8) : (s.setByte a k b).mcause = s.mcause := rfl
@[simp] theorem setByte_mtval (a : Word) (k : Nat) (b : BitVec 8) : (s.setByte a k b).mtval = s.mtval := rfl
@[simp] theorem setByte_cfg (a : Word) (k : Nat) (b : BitVec 8) : (s.setByte a k b).cfg = s.cfg := rfl
@[simp] theorem setByte_text (a : Word) (k : Nat) (b : BitVec 8) : (s.setByte a k b).text = s.text := rfl
@[simp] theorem setByte_mem (a : Word) (k : Nat) (b : BitVec 8) : (s.setByte a k b).mem = Memory.write s.mem (s.addrKey a k) b := rfl
@[simp] theorem setByte_ctxs (a : Word) (k : Nat) (b : BitVec 8) : (s.setByte a k b).ctxs = s.ctxs := rfl
@[simp] theorem setByte_draws (a : Word) (k : Nat) (b : BitVec 8) : (s.setByte a k b).draws = s.draws := rfl

/-! ### `State.write32` -/

@[simp] theorem write32_x (a : Word) (v : BitVec 32) : (s.write32 a v).x = s.x := by simp [State.write32]
@[simp] theorem write32_pc (a : Word) (v : BitVec 32) : (s.write32 a v).pc = s.pc := by simp [State.write32]
@[simp] theorem write32_priv (a : Word) (v : BitVec 32) : (s.write32 a v).priv = s.priv := by simp [State.write32]
@[simp] theorem write32_mcxSelector (a : Word) (v : BitVec 32) : (s.write32 a v).mcxSelector = s.mcxSelector := by simp [State.write32]
@[simp] theorem write32_cxStatus (a : Word) (v : BitVec 32) : (s.write32 a v).cxStatus = s.cxStatus := by simp [State.write32]
@[simp] theorem write32_mcxTable (a : Word) (v : BitVec 32) : (s.write32 a v).mcxTable = s.mcxTable := by simp [State.write32]
@[simp] theorem write32_cxIndex (a : Word) (v : BitVec 32) : (s.write32 a v).cxIndex = s.cxIndex := by simp [State.write32]
@[simp] theorem write32_mstatus (a : Word) (v : BitVec 32) : (s.write32 a v).mstatus = s.mstatus := by simp [State.write32]
@[simp] theorem write32_mtvec (a : Word) (v : BitVec 32) : (s.write32 a v).mtvec = s.mtvec := by simp [State.write32]
@[simp] theorem write32_mscratch (a : Word) (v : BitVec 32) : (s.write32 a v).mscratch = s.mscratch := by simp [State.write32]
@[simp] theorem write32_mepc (a : Word) (v : BitVec 32) : (s.write32 a v).mepc = s.mepc := by simp [State.write32]
@[simp] theorem write32_mcause (a : Word) (v : BitVec 32) : (s.write32 a v).mcause = s.mcause := by simp [State.write32]
@[simp] theorem write32_mtval (a : Word) (v : BitVec 32) : (s.write32 a v).mtval = s.mtval := by simp [State.write32]
@[simp] theorem write32_cfg (a : Word) (v : BitVec 32) : (s.write32 a v).cfg = s.cfg := by simp [State.write32]
@[simp] theorem write32_text (a : Word) (v : BitVec 32) : (s.write32 a v).text = s.text := by simp [State.write32]
@[simp] theorem write32_ctxs (a : Word) (v : BitVec 32) : (s.write32 a v).ctxs = s.ctxs := by simp [State.write32]
@[simp] theorem write32_draws (a : Word) (v : BitVec 32) : (s.write32 a v).draws = s.draws := by simp [State.write32]

/-! ### `State.write64` -/

@[simp] theorem write64_x (a : Word) (v : Word) : (s.write64 a v).x = s.x := by simp [State.write64]
@[simp] theorem write64_pc (a : Word) (v : Word) : (s.write64 a v).pc = s.pc := by simp [State.write64]
@[simp] theorem write64_priv (a : Word) (v : Word) : (s.write64 a v).priv = s.priv := by simp [State.write64]
@[simp] theorem write64_mcxSelector (a : Word) (v : Word) : (s.write64 a v).mcxSelector = s.mcxSelector := by simp [State.write64]
@[simp] theorem write64_cxStatus (a : Word) (v : Word) : (s.write64 a v).cxStatus = s.cxStatus := by simp [State.write64]
@[simp] theorem write64_mcxTable (a : Word) (v : Word) : (s.write64 a v).mcxTable = s.mcxTable := by simp [State.write64]
@[simp] theorem write64_cxIndex (a : Word) (v : Word) : (s.write64 a v).cxIndex = s.cxIndex := by simp [State.write64]
@[simp] theorem write64_mstatus (a : Word) (v : Word) : (s.write64 a v).mstatus = s.mstatus := by simp [State.write64]
@[simp] theorem write64_mtvec (a : Word) (v : Word) : (s.write64 a v).mtvec = s.mtvec := by simp [State.write64]
@[simp] theorem write64_mscratch (a : Word) (v : Word) : (s.write64 a v).mscratch = s.mscratch := by simp [State.write64]
@[simp] theorem write64_mepc (a : Word) (v : Word) : (s.write64 a v).mepc = s.mepc := by simp [State.write64]
@[simp] theorem write64_mcause (a : Word) (v : Word) : (s.write64 a v).mcause = s.mcause := by simp [State.write64]
@[simp] theorem write64_mtval (a : Word) (v : Word) : (s.write64 a v).mtval = s.mtval := by simp [State.write64]
@[simp] theorem write64_cfg (a : Word) (v : Word) : (s.write64 a v).cfg = s.cfg := by simp [State.write64]
@[simp] theorem write64_text (a : Word) (v : Word) : (s.write64 a v).text = s.text := by simp [State.write64]
@[simp] theorem write64_ctxs (a : Word) (v : Word) : (s.write64 a v).ctxs = s.ctxs := by simp [State.write64]
@[simp] theorem write64_draws (a : Word) (v : Word) : (s.write64 a v).draws = s.draws := by simp [State.write64]

/-! ### `State.takeTrap` -/

@[simp] theorem takeTrap_x (c : TrapCause) (tv : Word) : (s.takeTrap c tv).x = s.x := rfl
@[simp] theorem takeTrap_pc (c : TrapCause) (tv : Word) : (s.takeTrap c tv).pc = clear2 s.mtvec := rfl
@[simp] theorem takeTrap_priv (c : TrapCause) (tv : Word) : (s.takeTrap c tv).priv = .machine := rfl
@[simp] theorem takeTrap_mcxSelector (c : TrapCause) (tv : Word) : (s.takeTrap c tv).mcxSelector = s.mcxSelector := rfl
@[simp] theorem takeTrap_cxStatus (c : TrapCause) (tv : Word) : (s.takeTrap c tv).cxStatus = s.cxStatus := rfl
@[simp] theorem takeTrap_mcxTable (c : TrapCause) (tv : Word) : (s.takeTrap c tv).mcxTable = s.mcxTable := rfl
@[simp] theorem takeTrap_cxIndex (c : TrapCause) (tv : Word) : (s.takeTrap c tv).cxIndex = s.cxIndex := rfl
@[simp] theorem takeTrap_mstatus (c : TrapCause) (tv : Word) : (s.takeTrap c tv).mstatus = mstatusOf false (mstatusMie s.mstatus) s.priv := rfl
@[simp] theorem takeTrap_mtvec (c : TrapCause) (tv : Word) : (s.takeTrap c tv).mtvec = s.mtvec := rfl
@[simp] theorem takeTrap_mscratch (c : TrapCause) (tv : Word) : (s.takeTrap c tv).mscratch = s.mscratch := rfl
@[simp] theorem takeTrap_mepc (c : TrapCause) (tv : Word) : (s.takeTrap c tv).mepc = s.pc := rfl
@[simp] theorem takeTrap_mcause (c : TrapCause) (tv : Word) : (s.takeTrap c tv).mcause = c.code := rfl
@[simp] theorem takeTrap_mtval (c : TrapCause) (tv : Word) : (s.takeTrap c tv).mtval = norm s.cfg.xlen tv := rfl
@[simp] theorem takeTrap_cfg (c : TrapCause) (tv : Word) : (s.takeTrap c tv).cfg = s.cfg := rfl
@[simp] theorem takeTrap_text (c : TrapCause) (tv : Word) : (s.takeTrap c tv).text = s.text := rfl
@[simp] theorem takeTrap_mem (c : TrapCause) (tv : Word) : (s.takeTrap c tv).mem = s.mem := rfl
@[simp] theorem takeTrap_ctxs (c : TrapCause) (tv : Word) : (s.takeTrap c tv).ctxs = s.ctxs := rfl
@[simp] theorem takeTrap_draws (c : TrapCause) (tv : Word) : (s.takeTrap c tv).draws = s.draws := rfl

/-! ### `State.illegal` -/

@[simp] theorem illegal_x (w : Insn) : (s.illegal w).x = s.x := rfl
@[simp] theorem illegal_pc (w : Insn) : (s.illegal w).pc = clear2 s.mtvec := rfl
@[simp] theorem illegal_priv (w : Insn) : (s.illegal w).priv = .machine := rfl
@[simp] theorem illegal_mcxSelector (w : Insn) : (s.illegal w).mcxSelector = s.mcxSelector := rfl
@[simp] theorem illegal_cxStatus (w : Insn) : (s.illegal w).cxStatus = s.cxStatus := rfl
@[simp] theorem illegal_mcxTable (w : Insn) : (s.illegal w).mcxTable = s.mcxTable := rfl
@[simp] theorem illegal_cxIndex (w : Insn) : (s.illegal w).cxIndex = s.cxIndex := rfl
@[simp] theorem illegal_mstatus (w : Insn) : (s.illegal w).mstatus = mstatusOf false (mstatusMie s.mstatus) s.priv := rfl
@[simp] theorem illegal_mtvec (w : Insn) : (s.illegal w).mtvec = s.mtvec := rfl
@[simp] theorem illegal_mscratch (w : Insn) : (s.illegal w).mscratch = s.mscratch := rfl
@[simp] theorem illegal_mepc (w : Insn) : (s.illegal w).mepc = s.pc := rfl
@[simp] theorem illegal_mcause (w : Insn) : (s.illegal w).mcause = 2 := rfl
@[simp] theorem illegal_cfg (w : Insn) : (s.illegal w).cfg = s.cfg := rfl
@[simp] theorem illegal_text (w : Insn) : (s.illegal w).text = s.text := rfl
@[simp] theorem illegal_mem (w : Insn) : (s.illegal w).mem = s.mem := rfl
@[simp] theorem illegal_ctxs (w : Insn) : (s.illegal w).ctxs = s.ctxs := rfl
@[simp] theorem illegal_draws (w : Insn) : (s.illegal w).draws = s.draws := rfl

/-! ### `State.trapFreeTval` -/

@[simp] theorem trapFreeTval_x (c : TrapCause) : (s.trapFreeTval c).x = s.x := rfl
@[simp] theorem trapFreeTval_pc (c : TrapCause) : (s.trapFreeTval c).pc = clear2 s.mtvec := rfl
@[simp] theorem trapFreeTval_priv (c : TrapCause) : (s.trapFreeTval c).priv = .machine := rfl
@[simp] theorem trapFreeTval_mcxSelector (c : TrapCause) : (s.trapFreeTval c).mcxSelector = s.mcxSelector := rfl
@[simp] theorem trapFreeTval_cxStatus (c : TrapCause) : (s.trapFreeTval c).cxStatus = s.cxStatus := rfl
@[simp] theorem trapFreeTval_mcxTable (c : TrapCause) : (s.trapFreeTval c).mcxTable = s.mcxTable := rfl
@[simp] theorem trapFreeTval_cxIndex (c : TrapCause) : (s.trapFreeTval c).cxIndex = s.cxIndex := rfl
@[simp] theorem trapFreeTval_mstatus (c : TrapCause) : (s.trapFreeTval c).mstatus = mstatusOf false (mstatusMie s.mstatus) s.priv := rfl
@[simp] theorem trapFreeTval_mtvec (c : TrapCause) : (s.trapFreeTval c).mtvec = s.mtvec := rfl
@[simp] theorem trapFreeTval_mscratch (c : TrapCause) : (s.trapFreeTval c).mscratch = s.mscratch := rfl
@[simp] theorem trapFreeTval_mepc (c : TrapCause) : (s.trapFreeTval c).mepc = s.pc := rfl
@[simp] theorem trapFreeTval_mcause (c : TrapCause) : (s.trapFreeTval c).mcause = c.code := rfl
@[simp] theorem trapFreeTval_mtval (c : TrapCause) : (s.trapFreeTval c).mtval = norm s.cfg.xlen s.free := rfl
@[simp] theorem trapFreeTval_cfg (c : TrapCause) : (s.trapFreeTval c).cfg = s.cfg := rfl
@[simp] theorem trapFreeTval_text (c : TrapCause) : (s.trapFreeTval c).text = s.text := rfl
@[simp] theorem trapFreeTval_mem (c : TrapCause) : (s.trapFreeTval c).mem = s.mem := rfl
@[simp] theorem trapFreeTval_ctxs (c : TrapCause) : (s.trapFreeTval c).ctxs = s.ctxs := rfl
@[simp] theorem trapFreeTval_draws (c : TrapCause) : (s.trapFreeTval c).draws = s.draws + 1 := rfl

/-! ### `State.returnFromTrap` -/

@[simp] theorem returnFromTrap_x : s.returnFromTrap.x = s.x := rfl
@[simp] theorem returnFromTrap_pc : s.returnFromTrap.pc = s.mepc := rfl
@[simp] theorem returnFromTrap_priv : s.returnFromTrap.priv = mstatusMpp s.mstatus := rfl
@[simp] theorem returnFromTrap_mcxSelector : s.returnFromTrap.mcxSelector = s.mcxSelector := rfl
@[simp] theorem returnFromTrap_cxStatus : s.returnFromTrap.cxStatus = s.cxStatus := rfl
@[simp] theorem returnFromTrap_mcxTable : s.returnFromTrap.mcxTable = s.mcxTable := rfl
@[simp] theorem returnFromTrap_cxIndex : s.returnFromTrap.cxIndex = s.cxIndex := rfl
@[simp] theorem returnFromTrap_mstatus : s.returnFromTrap.mstatus = mstatusOf (mstatusMpie s.mstatus) true (leastLevel s.cfg.modes) := rfl
@[simp] theorem returnFromTrap_mtvec : s.returnFromTrap.mtvec = s.mtvec := rfl
@[simp] theorem returnFromTrap_mscratch : s.returnFromTrap.mscratch = s.mscratch := rfl
@[simp] theorem returnFromTrap_mepc : s.returnFromTrap.mepc = s.mepc := rfl
@[simp] theorem returnFromTrap_mcause : s.returnFromTrap.mcause = s.mcause := rfl
@[simp] theorem returnFromTrap_mtval : s.returnFromTrap.mtval = s.mtval := rfl
@[simp] theorem returnFromTrap_cfg : s.returnFromTrap.cfg = s.cfg := rfl
@[simp] theorem returnFromTrap_text : s.returnFromTrap.text = s.text := rfl
@[simp] theorem returnFromTrap_mem : s.returnFromTrap.mem = s.mem := rfl
@[simp] theorem returnFromTrap_ctxs : s.returnFromTrap.ctxs = s.ctxs := rfl
@[simp] theorem returnFromTrap_draws : s.returnFromTrap.draws = s.draws := rfl

/-! ### `State.setCtx` -/

@[simp] theorem setCtx_x (c i : BitVec 8) (k : Ctx) : (s.setCtx c i k).x = s.x := rfl
@[simp] theorem setCtx_pc (c i : BitVec 8) (k : Ctx) : (s.setCtx c i k).pc = s.pc := rfl
@[simp] theorem setCtx_priv (c i : BitVec 8) (k : Ctx) : (s.setCtx c i k).priv = s.priv := rfl
@[simp] theorem setCtx_mcxSelector (c i : BitVec 8) (k : Ctx) : (s.setCtx c i k).mcxSelector = s.mcxSelector := rfl
@[simp] theorem setCtx_cxStatus (c i : BitVec 8) (k : Ctx) : (s.setCtx c i k).cxStatus = s.cxStatus := rfl
@[simp] theorem setCtx_mcxTable (c i : BitVec 8) (k : Ctx) : (s.setCtx c i k).mcxTable = s.mcxTable := rfl
@[simp] theorem setCtx_cxIndex (c i : BitVec 8) (k : Ctx) : (s.setCtx c i k).cxIndex = s.cxIndex := rfl
@[simp] theorem setCtx_mstatus (c i : BitVec 8) (k : Ctx) : (s.setCtx c i k).mstatus = s.mstatus := rfl
@[simp] theorem setCtx_mtvec (c i : BitVec 8) (k : Ctx) : (s.setCtx c i k).mtvec = s.mtvec := rfl
@[simp] theorem setCtx_mscratch (c i : BitVec 8) (k : Ctx) : (s.setCtx c i k).mscratch = s.mscratch := rfl
@[simp] theorem setCtx_mepc (c i : BitVec 8) (k : Ctx) : (s.setCtx c i k).mepc = s.mepc := rfl
@[simp] theorem setCtx_mcause (c i : BitVec 8) (k : Ctx) : (s.setCtx c i k).mcause = s.mcause := rfl
@[simp] theorem setCtx_mtval (c i : BitVec 8) (k : Ctx) : (s.setCtx c i k).mtval = s.mtval := rfl
@[simp] theorem setCtx_cfg (c i : BitVec 8) (k : Ctx) : (s.setCtx c i k).cfg = s.cfg := rfl
@[simp] theorem setCtx_text (c i : BitVec 8) (k : Ctx) : (s.setCtx c i k).text = s.text := rfl
@[simp] theorem setCtx_mem (c i : BitVec 8) (k : Ctx) : (s.setCtx c i k).mem = s.mem := rfl
@[simp] theorem setCtx_ctxs (c i : BitVec 8) (k : Ctx) : (s.setCtx c i k).ctxs = Cells.set s.ctxs (ctxKey c i) k := rfl
@[simp] theorem setCtx_draws (c i : BitVec 8) (k : Ctx) : (s.setCtx c i k).draws = s.draws := rfl

/-! ### `State.setCtxDrawn` -/

@[simp] theorem setCtxDrawn_x (c i : BitVec 8) (k : Ctx) : (s.setCtxDrawn c i k).x = s.x := rfl
@[simp] theorem setCtxDrawn_pc (c i : BitVec 8) (k : Ctx) : (s.setCtxDrawn c i k).pc = s.pc := rfl
@[simp] theorem setCtxDrawn_priv (c i : BitVec 8) (k : Ctx) : (s.setCtxDrawn c i k).priv = s.priv := rfl
@[simp] theorem setCtxDrawn_mcxSelector (c i : BitVec 8) (k : Ctx) : (s.setCtxDrawn c i k).mcxSelector = s.mcxSelector := rfl
@[simp] theorem setCtxDrawn_cxStatus (c i : BitVec 8) (k : Ctx) : (s.setCtxDrawn c i k).cxStatus = s.cxStatus := rfl
@[simp] theorem setCtxDrawn_mcxTable (c i : BitVec 8) (k : Ctx) : (s.setCtxDrawn c i k).mcxTable = s.mcxTable := rfl
@[simp] theorem setCtxDrawn_cxIndex (c i : BitVec 8) (k : Ctx) : (s.setCtxDrawn c i k).cxIndex = s.cxIndex := rfl
@[simp] theorem setCtxDrawn_mstatus (c i : BitVec 8) (k : Ctx) : (s.setCtxDrawn c i k).mstatus = s.mstatus := rfl
@[simp] theorem setCtxDrawn_mtvec (c i : BitVec 8) (k : Ctx) : (s.setCtxDrawn c i k).mtvec = s.mtvec := rfl
@[simp] theorem setCtxDrawn_mscratch (c i : BitVec 8) (k : Ctx) : (s.setCtxDrawn c i k).mscratch = s.mscratch := rfl
@[simp] theorem setCtxDrawn_mepc (c i : BitVec 8) (k : Ctx) : (s.setCtxDrawn c i k).mepc = s.mepc := rfl
@[simp] theorem setCtxDrawn_mcause (c i : BitVec 8) (k : Ctx) : (s.setCtxDrawn c i k).mcause = s.mcause := rfl
@[simp] theorem setCtxDrawn_mtval (c i : BitVec 8) (k : Ctx) : (s.setCtxDrawn c i k).mtval = s.mtval := rfl
@[simp] theorem setCtxDrawn_cfg (c i : BitVec 8) (k : Ctx) : (s.setCtxDrawn c i k).cfg = s.cfg := rfl
@[simp] theorem setCtxDrawn_text (c i : BitVec 8) (k : Ctx) : (s.setCtxDrawn c i k).text = s.text := rfl
@[simp] theorem setCtxDrawn_mem (c i : BitVec 8) (k : Ctx) : (s.setCtxDrawn c i k).mem = s.mem := rfl
@[simp] theorem setCtxDrawn_ctxs (c i : BitVec 8) (k : Ctx) : (s.setCtxDrawn c i k).ctxs = Cells.set s.ctxs (ctxKey c i) k := rfl
@[simp] theorem setCtxDrawn_draws (c i : BitVec 8) (k : Ctx) : (s.setCtxDrawn c i k).draws = s.draws + 1 := rfl

/-! ### `State.writeSelector` -/

@[simp] theorem writeSelector_x (v : BitVec 32) : (s.writeSelector v).x = s.x := by unfold State.writeSelector; dsimp only; split <;> rfl
@[simp] theorem writeSelector_pc (v : BitVec 32) : (s.writeSelector v).pc = s.pc := by unfold State.writeSelector; dsimp only; split <;> rfl
@[simp] theorem writeSelector_priv (v : BitVec 32) : (s.writeSelector v).priv = s.priv := by unfold State.writeSelector; dsimp only; split <;> rfl
@[simp] theorem writeSelector_mcxSelector (v : BitVec 32) : (s.writeSelector v).mcxSelector = selectorBits v := by unfold State.writeSelector; dsimp only; split <;> rfl
@[simp] theorem writeSelector_mcxTable (v : BitVec 32) : (s.writeSelector v).mcxTable = s.mcxTable := by unfold State.writeSelector; dsimp only; split <;> rfl
@[simp] theorem writeSelector_cxIndex (v : BitVec 32) : (s.writeSelector v).cxIndex = s.cxIndex := by unfold State.writeSelector; dsimp only; split <;> rfl
@[simp] theorem writeSelector_mstatus (v : BitVec 32) : (s.writeSelector v).mstatus = s.mstatus := by unfold State.writeSelector; dsimp only; split <;> rfl
@[simp] theorem writeSelector_mtvec (v : BitVec 32) : (s.writeSelector v).mtvec = s.mtvec := by unfold State.writeSelector; dsimp only; split <;> rfl
@[simp] theorem writeSelector_mscratch (v : BitVec 32) : (s.writeSelector v).mscratch = s.mscratch := by unfold State.writeSelector; dsimp only; split <;> rfl
@[simp] theorem writeSelector_mepc (v : BitVec 32) : (s.writeSelector v).mepc = s.mepc := by unfold State.writeSelector; dsimp only; split <;> rfl
@[simp] theorem writeSelector_mcause (v : BitVec 32) : (s.writeSelector v).mcause = s.mcause := by unfold State.writeSelector; dsimp only; split <;> rfl
@[simp] theorem writeSelector_mtval (v : BitVec 32) : (s.writeSelector v).mtval = s.mtval := by unfold State.writeSelector; dsimp only; split <;> rfl
@[simp] theorem writeSelector_cfg (v : BitVec 32) : (s.writeSelector v).cfg = s.cfg := by unfold State.writeSelector; dsimp only; split <;> rfl
@[simp] theorem writeSelector_text (v : BitVec 32) : (s.writeSelector v).text = s.text := by unfold State.writeSelector; dsimp only; split <;> rfl
@[simp] theorem writeSelector_mem (v : BitVec 32) : (s.writeSelector v).mem = s.mem := by unfold State.writeSelector; dsimp only; split <;> rfl
@[simp] theorem writeSelector_ctxs (v : BitVec 32) : (s.writeSelector v).ctxs = s.ctxs := by unfold State.writeSelector; dsimp only; split <;> rfl
@[simp] theorem writeSelector_draws (v : BitVec 32) : (s.writeSelector v).draws = s.draws := by unfold State.writeSelector; dsimp only; split <;> rfl

/-! ### `State.writeCxStatus` -/

@[simp] theorem writeCxStatus_x (v : BitVec 32) : (s.writeCxStatus v).x = s.x := rfl
@[simp] theorem writeCxStatus_pc (v : BitVec 32) : (s.writeCxStatus v).pc = s.pc := rfl
@[simp] theorem writeCxStatus_priv (v : BitVec 32) : (s.writeCxStatus v).priv = s.priv := rfl
@[simp] theorem writeCxStatus_mcxSelector (v : BitVec 32) : (s.writeCxStatus v).mcxSelector = s.mcxSelector := rfl
@[simp] theorem writeCxStatus_cxStatus (v : BitVec 32) : (s.writeCxStatus v).cxStatus = statusBits v := rfl
@[simp] theorem writeCxStatus_mcxTable (v : BitVec 32) : (s.writeCxStatus v).mcxTable = s.mcxTable := rfl
@[simp] theorem writeCxStatus_cxIndex (v : BitVec 32) : (s.writeCxStatus v).cxIndex = s.cxIndex := rfl
@[simp] theorem writeCxStatus_mstatus (v : BitVec 32) : (s.writeCxStatus v).mstatus = s.mstatus := rfl
@[simp] theorem writeCxStatus_mtvec (v : BitVec 32) : (s.writeCxStatus v).mtvec = s.mtvec := rfl
@[simp] theorem writeCxStatus_mscratch (v : BitVec 32) : (s.writeCxStatus v).mscratch = s.mscratch := rfl
@[simp] theorem writeCxStatus_mepc (v : BitVec 32) : (s.writeCxStatus v).mepc = s.mepc := rfl
@[simp] theorem writeCxStatus_mcause (v : BitVec 32) : (s.writeCxStatus v).mcause = s.mcause := rfl
@[simp] theorem writeCxStatus_mtval (v : BitVec 32) : (s.writeCxStatus v).mtval = s.mtval := rfl
@[simp] theorem writeCxStatus_cfg (v : BitVec 32) : (s.writeCxStatus v).cfg = s.cfg := rfl
@[simp] theorem writeCxStatus_text (v : BitVec 32) : (s.writeCxStatus v).text = s.text := rfl
@[simp] theorem writeCxStatus_mem (v : BitVec 32) : (s.writeCxStatus v).mem = s.mem := rfl
@[simp] theorem writeCxStatus_ctxs (v : BitVec 32) : (s.writeCxStatus v).ctxs = s.ctxs := rfl
@[simp] theorem writeCxStatus_draws (v : BitVec 32) : (s.writeCxStatus v).draws = s.draws := rfl

/-! ### `State.writeTable` -/

@[simp] theorem writeTable_x (v : Word) : (s.writeTable v).x = s.x := rfl
@[simp] theorem writeTable_pc (v : Word) : (s.writeTable v).pc = s.pc := rfl
@[simp] theorem writeTable_priv (v : Word) : (s.writeTable v).priv = s.priv := rfl
@[simp] theorem writeTable_mcxSelector (v : Word) : (s.writeTable v).mcxSelector = s.mcxSelector := rfl
@[simp] theorem writeTable_cxStatus (v : Word) : (s.writeTable v).cxStatus = s.cxStatus := rfl
@[simp] theorem writeTable_mcxTable (v : Word) : (s.writeTable v).mcxTable = tableBits s.cfg v := rfl
@[simp] theorem writeTable_cxIndex (v : Word) : (s.writeTable v).cxIndex = s.cxIndex := rfl
@[simp] theorem writeTable_mstatus (v : Word) : (s.writeTable v).mstatus = s.mstatus := rfl
@[simp] theorem writeTable_mtvec (v : Word) : (s.writeTable v).mtvec = s.mtvec := rfl
@[simp] theorem writeTable_mscratch (v : Word) : (s.writeTable v).mscratch = s.mscratch := rfl
@[simp] theorem writeTable_mepc (v : Word) : (s.writeTable v).mepc = s.mepc := rfl
@[simp] theorem writeTable_mcause (v : Word) : (s.writeTable v).mcause = s.mcause := rfl
@[simp] theorem writeTable_mtval (v : Word) : (s.writeTable v).mtval = s.mtval := rfl
@[simp] theorem writeTable_cfg (v : Word) : (s.writeTable v).cfg = s.cfg := rfl
@[simp] theorem writeTable_text (v : Word) : (s.writeTable v).text = s.text := rfl
@[simp] theorem writeTable_mem (v : Word) : (s.writeTable v).mem = s.mem := rfl
@[simp] theorem writeTable_ctxs (v : Word) : (s.writeTable v).ctxs = s.ctxs := rfl
@[simp] theorem writeTable_draws (v : Word) : (s.writeTable v).draws = s.draws := rfl

/-! ### `State.tick` -/

@[simp] theorem tick_x : s.tick.x = s.x := rfl
@[simp] theorem tick_pc : s.tick.pc = s.pc := rfl
@[simp] theorem tick_priv : s.tick.priv = s.priv := rfl
@[simp] theorem tick_mcxSelector : s.tick.mcxSelector = s.mcxSelector := rfl
@[simp] theorem tick_cxStatus : s.tick.cxStatus = s.cxStatus := rfl
@[simp] theorem tick_mcxTable : s.tick.mcxTable = s.mcxTable := rfl
@[simp] theorem tick_cxIndex : s.tick.cxIndex = s.cxIndex := rfl
@[simp] theorem tick_mstatus : s.tick.mstatus = s.mstatus := rfl
@[simp] theorem tick_mtvec : s.tick.mtvec = s.mtvec := rfl
@[simp] theorem tick_mscratch : s.tick.mscratch = s.mscratch := rfl
@[simp] theorem tick_mepc : s.tick.mepc = s.mepc := rfl
@[simp] theorem tick_mcause : s.tick.mcause = s.mcause := rfl
@[simp] theorem tick_mtval : s.tick.mtval = s.mtval := rfl
@[simp] theorem tick_cfg : s.tick.cfg = s.cfg := rfl
@[simp] theorem tick_text : s.tick.text = s.text := rfl
@[simp] theorem tick_mem : s.tick.mem = s.mem := rfl
@[simp] theorem tick_ctxs : s.tick.ctxs = s.ctxs.map (tickCtx s.cfg) := rfl
@[simp] theorem tick_draws : s.tick.draws = s.draws := rfl

end Sys2Proof.Machine
end

