-- ==== Sys2Proof/Laws/Ops.lean ====
section
/-! SUPPORT. What each shared operation does, once: registers, memory, exceptions, the CSR writes, the
decision of a custom operation, the dispatch. -/

namespace Sys2Proof.Machine

variable (s : State)

/-! ### Registers -/

@[simp] theorem xr_zero : s.xr 0#5 = 0#64 := rfl

/-- A register read after a register write (R12, R22). -/
theorem xr_setX (i j : Reg) (v : Word) :
    (s.setX i v).xr j = if j = i ∧ i ≠ 0 then norm s.cfg.xlen v else s.xr j := by
  by_cases hi : i = 0
  · rw [if_neg (fun h => h.2 hi), State.setX, if_pos hi]
  · unfold State.setX
    rw [if_neg hi]
    unfold State.xr
    by_cases hj : j = 0
    · rw [if_pos hj, if_pos hj, if_neg (fun h => h.2 (h.1 ▸ hj))]
    · rw [if_neg hj, if_neg hj]
      by_cases hji : j = i
      · subst hji
        rw [if_pos ⟨rfl, hi⟩]
        simp
      · rw [if_neg (fun h => hji h.1)]
        have hne : i.toNat ≠ j.toNat := fun h => hji (BitVec.eq_of_toNat_eq h.symm)
        simp [Vector.getElem_set_ne, hne]

@[simp] theorem xr_setX_same {i : Reg} (hi : i ≠ 0#5) (v : Word) : (s.setX i v).xr i = norm s.cfg.xlen v := by
  rw [xr_setX, if_pos ⟨rfl, hi⟩]

theorem xr_setX_other {i j : Reg} (h : j ≠ i) (v : Word) : (s.setX i v).xr j = s.xr j := by
  rw [xr_setX, if_neg (fun c => h c.1)]

@[simp] theorem setX_x0 (v : Word) : s.setX 0#5 v = s := rfl

/-- A register read is an XLEN-bit value. -/
@[simp] theorem norm_xr (i : Reg) : norm s.cfg.xlen (s.xr i) = s.xr i := by
  unfold State.xr
  split <;> simp

/-- Reading registers depends on the register slots and XLEN alone. -/
theorem xr_congr {s t : State} (hx : t.x = s.x) (hc : t.cfg = s.cfg) (i : Reg) : t.xr i = s.xr i := by
  unfold State.xr
  rw [hx, hc]

@[simp] theorem xr_advance (i : Reg) : s.advance.xr i = s.xr i := rfl
@[simp] theorem xr_setPc (t : Word) (i : Reg) : (s.setPc t).xr i = s.xr i := rfl
@[simp] theorem xr_drawn (i : Reg) : s.drawn.xr i = s.xr i := rfl
@[simp] theorem xr_setCtx (c k : BitVec 8) (v : Ctx) (i : Reg) : (s.setCtx c k v).xr i = s.xr i := rfl
@[simp] theorem xr_setCtxDrawn (c k : BitVec 8) (v : Ctx) (i : Reg) :
    (s.setCtxDrawn c k v).xr i = s.xr i := rfl
@[simp] theorem xr_setFlag (f : Option CxFlag) (i : Reg) : (s.setFlag f).xr i = s.xr i :=
  xr_congr (setFlag_x s f) (setFlag_cfg s f) i
@[simp] theorem xr_takeTrap (c : TrapCause) (v : Word) (i : Reg) : (s.takeTrap c v).xr i = s.xr i := rfl
@[simp] theorem xr_illegal (w : Insn) (i : Reg) : (s.illegal w).xr i = s.xr i := rfl
@[simp] theorem xr_trapFreeTval (c : TrapCause) (i : Reg) : (s.trapFreeTval c).xr i = s.xr i := rfl
@[simp] theorem xr_returnFromTrap (i : Reg) : s.returnFromTrap.xr i = s.xr i := rfl
@[simp] theorem xr_tick (i : Reg) : s.tick.xr i = s.xr i := rfl
@[simp] theorem xr_write32 (a : Word) (v : BitVec 32) (i : Reg) : (s.write32 a v).xr i = s.xr i :=
  xr_congr (write32_x s a v) (write32_cfg s a v) i
@[simp] theorem xr_write64 (a v : Word) (i : Reg) : (s.write64 a v).xr i = s.xr i :=
  xr_congr (write64_x s a v) (write64_cfg s a v) i
@[simp] theorem xr_writeSelector (v : BitVec 32) (i : Reg) : (s.writeSelector v).xr i = s.xr i :=
  xr_congr (writeSelector_x s v) (writeSelector_cfg s v) i

/-! ### Memory -/

/-- A stored word touches four addresses; every other byte is as before (R313). -/
theorem read_write32_other (a : Word) (v : BitVec 32) {k : Nat} (h : ∀ i, i < 4 → k ≠ s.addrKey a i) :
    Memory.read (s.write32 a v).mem k = Memory.read s.mem k := by
  have key : ∀ i, (s.setByte a i 0).addrKey = s.addrKey := fun _ => rfl
  simp only [State.write32, setByte_mem, Memory.read_write, State.addrKey, setByte_cfg]
  have h0 := h 0 (by omega); have h1 := h 1 (by omega); have h2 := h 2 (by omega); have h3 := h 3 (by omega)
  simp only [State.addrKey] at h0 h1 h2 h3
  rw [if_neg h3, if_neg h2, if_neg h1, if_neg h0]

/-- A write keeps the canonical form and the bound of memory. -/
theorem setByte_mem_ok (h : Memory.wf s.mem) (hb : Memory.below s.mem (2 ^ xlenBits s.cfg.xlen))
    (a : Word) (k : Nat) (b : BitVec 8) :
    Memory.wf (s.setByte a k b).mem ∧ Memory.below (s.setByte a k b).mem (2 ^ xlenBits s.cfg.xlen) :=
  ⟨Memory.wf_write h _ _, Memory.below_write hb (norm_lt _ _) _⟩

/-- A stored word keeps the canonical form and the bound of memory. -/
theorem write32_mem_ok (h : Memory.wf s.mem) (hb : Memory.below s.mem (2 ^ xlenBits s.cfg.xlen))
    (a : Word) (v : BitVec 32) :
    Memory.wf (s.write32 a v).mem ∧ Memory.below (s.write32 a v).mem (2 ^ xlenBits s.cfg.xlen) := by
  obtain ⟨h0, b0⟩ := setByte_mem_ok s h hb a 0 (v.extractLsb' 0 8)
  obtain ⟨h1, b1⟩ := setByte_mem_ok _ h0 b0 a 1 (v.extractLsb' 8 8)
  obtain ⟨h2, b2⟩ := setByte_mem_ok _ h1 b1 a 2 (v.extractLsb' 16 8)
  exact setByte_mem_ok _ h2 b2 a 3 (v.extractLsb' 24 8)

/-! ### The program text -/

@[simp] theorem placeWord_mem (w : Insn) : (s.placeWord w).mem = s.mem := rfl
@[simp] theorem placeWord_pc (w : Insn) : (s.placeWord w).pc = s.pc := rfl
@[simp] theorem placeWord_cfg (w : Insn) : (s.placeWord w).cfg = s.cfg := rfl

/-- A placed word keeps the canonical form and the bound of the program text. -/
theorem placeWord_text_ok (h : Memory.wf s.text) (hb : Memory.below s.text (2 ^ xlenBits s.cfg.xlen)) (w : Insn) :
    Memory.wf (s.placeWord w).text ∧ Memory.below (s.placeWord w).text (2 ^ xlenBits s.cfg.xlen) :=
  write32_mem_ok { s with mem := s.text } h hb s.pc w

/-! ### State contexts -/

/-- The address of a context determines its two numbers. -/
theorem ctxKey_inj {c s c' s' : BitVec 8} (h : ctxKey c s = ctxKey c' s') : c = c' ∧ s = s' := by
  unfold ctxKey at h
  have := s.isLt; have := s'.isLt
  exact ⟨BitVec.eq_of_toNat_eq (by omega), BitVec.eq_of_toNat_eq (by omega)⟩

/-- The context that was set. -/
@[simp] theorem ctx_setCtx_same (cx : ExtConfig) (c i : BitVec 8) (k : Ctx) :
    (s.setCtx c i k).ctx cx c i = k := by
  simp [State.ctx, State.setCtx, Cells.get_set]

/-- Every other context is as before (R48). -/
theorem ctx_setCtx_other (cx : ExtConfig) {c i c' i' : BitVec 8} (h : ¬(c' = c ∧ i' = i)) (k : Ctx) :
    (s.setCtx c i k).ctx cx c' i' = s.ctx cx c' i' := by
  have hk : ctxKey c' i' ≠ ctxKey c i := fun hk => h (ctxKey_inj hk)
  simp [State.ctx, State.setCtx, Cells.get_set, hk]

@[simp] theorem ctxStatusOf_bits (cs : CtxStatus) : ctxStatusOf cs.bits = cs := by cases cs <;> rfl

/-! ### CSR writes -/

/-- What a write of `mcx_selector` does (R171): the stored bits and, under a reserved version, `IV`. -/
theorem writeSelector_spec (v : BitVec 32) :
    s.writeSelector v = { s with
      mcxSelector := selectorBits v
      cxStatus := if versionReserved (selVersion v) then CxFlag.invalidVersion.into s.cxStatus
                  else s.cxStatus } := by
  unfold State.writeSelector
  dsimp only
  split <;> rfl

/-- A write of `cx_index` loads the entry and writes the selector, or is refused by protection (R175, R346). -/
theorem writeIndex_cases (v : Word) :
    (s.writeIndex v = .ok ({ s with cxIndex := (indexOf v).setWidth 32 }.writeSelector
        (s.read32 (s.entryAddr (indexOf v)))) ∧
      memCheck s.cfg (cxidxPriv s.cfg s.priv) (s.entryAddr (indexOf v)) 4 .load = .allowed) ∨
    (∃ c, s.writeIndex v = .error c ∧ (c = .loadAccess ∨ c = .loadPage) ∧
      memCheck s.cfg (cxidxPriv s.cfg s.priv) (s.entryAddr (indexOf v)) 4 .load ≠ .allowed) := by
  unfold State.writeIndex
  dsimp only
  cases memCheck s.cfg (cxidxPriv s.cfg s.priv) (s.entryAddr (indexOf v)) 4 .load <;> simp [loadFaultCause]

/-- `CsrCommon` does one of five things (R161). -/
theorem csrCommon_cases (insn : Insn) (a : CsrAddr) (fn : CsrFn) (src : Word) (rd : Reg) :
    (csrDenied a (fn != .read) s.priv = true ∧ s.csrCommon insn a fn src rd = s.illegal insn) ∨
    (csrDenied a (fn != .read) s.priv = false ∧
      ((∃ r, csrClass a = .cxIsa r ∧ s.csrCommon insn a fn src rd = s.cxIsaAccess insn r fn src rd) ∨
       (csrClass a = .custom ∧
          s.csrCommon insn a fn src rd = s.customOp .csrAcc insn (.csr fn) src (csrOperand a) (some rd)) ∨
       (∃ r, csrClass a = .base r ∧ s.csrCommon insn a fn src rd = s.baseAccess r fn src rd) ∨
       (csrClass a = .absent ∧ s.csrCommon insn a fn src rd = s.illegal insn))) := by
  unfold State.csrCommon
  cases hd : csrDenied a (fn != .read) s.priv
  · refine .inr ⟨rfl, ?_⟩
    cases hc : csrClass a <;> simp
  · simp

/-! ### Custom operations -/

/-- The dispatch on `mcx_selector` (R201). -/
theorem customOp_cases (kind : OpKind) (insn : Insn) (func : FuncId) (d0 d1 : Word) (dest : Option Reg) :
    (versionReserved (selVersion s.mcxSelector) = true ∧
      s.customOp kind insn func d0 d1 dest =
        ((s.setFlag (some .invalidVersion)).setDest dest 0).advance) ∨
    (versionReserved (selVersion s.mcxSelector) = false ∧ selCxe s.mcxSelector = true ∧
      s.customOp kind insn func d0 d1 dest = s.illegal insn) ∨
    (versionReserved (selVersion s.mcxSelector) = false ∧ selCxe s.mcxSelector = false ∧
      (selVersion s.mcxSelector = 0 ∨ kind = .cf3) ∧
      s.customOp kind insn func d0 d1 dest = s.builtin insn) ∨
    (versionReserved (selVersion s.mcxSelector) = false ∧ selCxe s.mcxSelector = false ∧
      selVersion s.mcxSelector = 1 ∧ kind ≠ .cf3 ∧
      s.customOp kind insn func d0 d1 dest = s.multiplex
        { cxu := selCxuId s.mcxSelector, state := selStateId s.mcxSelector, insn := insn, func := func,
          data0 := d0, data1 := d1 } dest) := by
  unfold State.customOp
  dsimp only
  cases hr : versionReserved (selVersion s.mcxSelector)
  · cases hc : selCxe s.mcxSelector
    · by_cases hz : selVersion s.mcxSelector = 0
      · simp [hz]
      · by_cases hk : kind = .cf3
        · simp [hk]
        · have h1 : selVersion s.mcxSelector = 1 := by
            by_contra h1
            have : versionReserved (selVersion s.mcxSelector) = true := by
              simp only [versionReserved, Bool.and_eq_true, bne_iff_ne]
              exact ⟨hz, h1⟩
            rw [hr] at this
            cases this
          simp [hk, h1]
    · simp
  · simp

/-- The error decision (R203): one of six outcomes, in this order. -/
theorem decideOp_cases (r : CxuRequest) :
    (cxuOf s.cfg r.cxu = none ∧ s.decideOp r = (0, some .invalidCxu, s)) ∨
    ∃ cx, cxuOf s.cfg r.cxu = some cx ∧
      ((validState cx r.state = false ∧ s.decideOp r = (0, some .invalidState, s)) ∨
       (validState cx r.state = true ∧ cx.stateful = true ∧ (s.ctx cx r.cxu r.state).inactive = true ∧
          offApplies r.func r.data1 = true ∧
          s.decideOp r = (norm s.cfg.xlen s.free, some .contextOff, s.drawn)) ∨
       (validState cx r.state = true ∧ validFunc s.cfg cx r.func r.data1 = false ∧
          s.decideOp r = (norm s.cfg.xlen s.free, some .invalidFunc, s.drawn)) ∨
       (validState cx r.state = true ∧ validFunc s.cfg cx r.func r.data1 = true ∧
          s.decideOp r =
            ((s.perform cx r).1, respFlag (s.perform cx r).2.1, (s.perform cx r).2.2))) := by
  unfold State.decideOp
  cases hc : cxuOf s.cfg r.cxu with
  | none => exact .inl ⟨rfl, rfl⟩
  | some cx =>
    refine .inr ⟨cx, rfl, ?_⟩
    cases hv : validState cx r.state with
    | false => simp [hv]
    | true =>
      cases ho : cx.stateful && (s.ctx cx r.cxu r.state).inactive && offApplies r.func r.data1 <;>
        cases hf : validFunc s.cfg cx r.func r.data1 <;> simp_all

end Sys2Proof.Machine
end

