-- ==== Sys2Proof/Laws/PerInstr.lean ====
section
/-! SUPPORT. For each instruction: its encoded word carries the fixed fields of its row of
spec/opcode_table.json. -/

namespace Sys2Proof.Laws.EncodeMatchesTable

/-- The fixed fields of the row of an instruction: lowest bit, width, value. The CF_IDs of the four standard
custom functions are those of the reference configuration, as in the table. -/
def fixedFields : Instr → List (Nat × Nat × Nat)
  | .cxReg _ _ _ _ => [(0, 7, 11)]
  | .cxImm _ _ _ _ => [(0, 7, 43)]
  | .cxFlex _ _ _ => [(0, 7, 91)]
  | .cxFlex25 _ => [(0, 7, 91)]
  | .custom3 _ => [(0, 7, 123)]
  | .cxReadStatus _ _ _ => [(0, 7, 11), (12, 3, 7), (25, 7, 127)]
  | .cxWriteStatus _ _ _ => [(0, 7, 11), (12, 3, 6), (25, 7, 127)]
  | .cxReadState _ _ _ => [(0, 7, 11), (12, 3, 5), (25, 7, 127)]
  | .cxWriteState _ _ _ => [(0, 7, 11), (12, 3, 4), (25, 7, 127)]
  | .csrrw _ _ _ => [(0, 7, 115), (12, 3, 1)]
  | .csrrs _ _ _ => [(0, 7, 115), (12, 3, 2)]
  | .csrrc _ _ _ => [(0, 7, 115), (12, 3, 3)]
  | .csrrwi _ _ _ => [(0, 7, 115), (12, 3, 5)]
  | .csrrsi _ _ _ => [(0, 7, 115), (12, 3, 6)]
  | .csrrci _ _ _ => [(0, 7, 115), (12, 3, 7)]
  | .lui _ _ => [(0, 7, 55)]
  | .addi _ _ _ => [(0, 7, 19), (12, 3, 0)]
  | .add _ _ _ => [(0, 7, 51), (12, 3, 0), (25, 7, 0)]
  | .andi _ _ _ => [(0, 7, 19), (12, 3, 7)]
  | .slli _ _ _ => [(0, 7, 19), (12, 3, 1), (26, 6, 0)]
  | .srli _ _ _ => [(0, 7, 19), (12, 3, 5), (26, 6, 0)]
  | .lw _ _ _ => [(0, 7, 3), (12, 3, 2)]
  | .ld _ _ _ => [(0, 7, 3), (12, 3, 3)]
  | .sw _ _ _ => [(0, 7, 35), (12, 3, 2)]
  | .sd _ _ _ => [(0, 7, 35), (12, 3, 3)]
  | .beq _ _ _ => [(0, 7, 99), (12, 3, 0)]
  | .bne _ _ _ => [(0, 7, 99), (12, 3, 1)]
  | .jal _ _ => [(0, 7, 111)]
  | .ecall => [(0, 32, 115)]
  | .mret => [(0, 32, 807403635)]

/-- The encoded word of the instruction has every fixed field of its row. -/
def Statement (i : Instr) : Prop :=
  ∀ f ∈ fixedFields i, (encode Config.reference i).toNat / 2 ^ f.1 % 2 ^ f.2.1 = f.2.2

theorem opcode_field {w : Insn} {op : BitVec 7} (h : Field.opcode w = op) :
    w.toNat / 2 ^ 0 % 2 ^ 7 = op.toNat := by
  rw [← h, Field.opcode_toNat]; norm_num

theorem funct3_field {w : Insn} {k : BitVec 3} (h : Field.funct3 w = k) :
    w.toNat / 2 ^ 12 % 2 ^ 3 = k.toNat := by
  rw [← h, Field.funct3_toNat]; norm_num

theorem funct7_field {w : Insn} {k : BitVec 7} (h : Field.funct7 w = k) :
    w.toNat / 2 ^ 25 % 2 ^ 7 = k.toNat := by
  rw [← h, Field.funct7_toNat]; norm_num

theorem funct6_field {w : Insn} {k : BitVec 6} (h : Field.funct6 w = k) :
    w.toNat / 2 ^ 26 % 2 ^ 6 = k.toNat := by
  rw [← h, Field.funct6_toNat]; norm_num

/-- One fixed field. -/
theorem one {i : Instr} {a b c : Nat} (h : fixedFields i = [(a, b, c)])
    (h1 : (encode Config.reference i).toNat / 2 ^ a % 2 ^ b = c) : Statement i := by
  unfold Statement
  rw [h]
  simpa using h1

/-- Two fixed fields. -/
theorem two {i : Instr} {a b c a' b' c' : Nat} (h : fixedFields i = [(a, b, c), (a', b', c')])
    (h1 : (encode Config.reference i).toNat / 2 ^ a % 2 ^ b = c)
    (h2 : (encode Config.reference i).toNat / 2 ^ a' % 2 ^ b' = c') : Statement i := by
  unfold Statement
  rw [h]
  simpa using ⟨h1, h2⟩

/-- Three fixed fields. -/
theorem three {i : Instr} {a b c a' b' c' p q r : Nat} (h : fixedFields i = [(a, b, c), (a', b', c'), (p, q, r)])
    (h1 : (encode Config.reference i).toNat / 2 ^ a % 2 ^ b = c)
    (h2 : (encode Config.reference i).toNat / 2 ^ a' % 2 ^ b' = c')
    (h3 : (encode Config.reference i).toNat / 2 ^ p % 2 ^ q = r) : Statement i := by
  unfold Statement
  rw [h]
  simpa using ⟨h1, h2, h3⟩

theorem cxReg (cfId : CfId) (rd rs1 rs2 : Reg) : Statement (.cxReg cfId rd rs1 rs2) :=
  one rfl (opcode_field (Layout.fields_cf cfId rs2 rs1 rd 0b0001011#7).1)
theorem cxImm (cfId : BitVec 3) (rd rs1 : Reg) (imm : BitVec 12) : Statement (.cxImm cfId rd rs1 imm) :=
  one rfl (opcode_field (Layout.fields_i imm rs1 cfId rd 0b0101011#7).1)
theorem cxFlex (cfId : CfId) (rs1 rs2 : Reg) : Statement (.cxFlex cfId rs1 rs2) :=
  one rfl (opcode_field (Layout.fields_cf cfId rs2 rs1 0#5 0b1011011#7).1)
theorem cxFlex25 (custom : BitVec 25) : Statement (.cxFlex25 custom) :=
  one rfl (opcode_field (fields_upper25 custom 0b1011011#7).1)
theorem custom3 (raw : BitVec 25) : Statement (.custom3 raw) :=
  one rfl (opcode_field (fields_upper25 raw 0b1111011#7).1)

/-- A custom-0 word with the CF_ID of a standard function. -/
theorem standard (f : CfId) (rd rs1 rs2 : Reg) (k : BitVec 3) (h7 : f.extractLsb' 3 7 = 127#7)
    (h3 : f.extractLsb' 0 3 = k) :
    (Layout.cf f rs2 rs1 rd 0b0001011#7).toNat / 2 ^ 0 % 2 ^ 7 = 11 ∧
    (Layout.cf f rs2 rs1 rd 0b0001011#7).toNat / 2 ^ 12 % 2 ^ 3 = k.toNat ∧
    (Layout.cf f rs2 rs1 rd 0b0001011#7).toNat / 2 ^ 25 % 2 ^ 7 = 127 := by
  obtain ⟨h1, _, h2, _, _, h6⟩ := Layout.fields_r (f.extractLsb' 3 7) rs2 rs1 (f.extractLsb' 0 3) rd 0b0001011#7
  refine ⟨opcode_field h1, ?_, ?_⟩
  · rw [← h3]; exact funct3_field h2
  · exact (funct7_field h6).trans (by rw [h7]; rfl)

theorem cxReadStatus (rd rs1 rs2 : Reg) : Statement (.cxReadStatus rd rs1 rs2) :=
  have h := standard 1023#10 rd rs1 rs2 7#3 (by decide) (by decide)
  three rfl h.1 h.2.1 h.2.2
theorem cxWriteStatus (rd rs1 rs2 : Reg) : Statement (.cxWriteStatus rd rs1 rs2) :=
  have h := standard 1022#10 rd rs1 rs2 6#3 (by decide) (by decide)
  three rfl h.1 h.2.1 h.2.2
theorem cxReadState (rd rs1 rs2 : Reg) : Statement (.cxReadState rd rs1 rs2) :=
  have h := standard 1021#10 rd rs1 rs2 5#3 (by decide) (by decide)
  three rfl h.1 h.2.1 h.2.2
theorem cxWriteState (rd rs1 rs2 : Reg) : Statement (.cxWriteState rd rs1 rs2) :=
  have h := standard 1020#10 rd rs1 rs2 4#3 (by decide) (by decide)
  three rfl h.1 h.2.1 h.2.2

/-- An I-type word. -/
theorem itype (imm : BitVec 12) (rs1 : Reg) (k : BitVec 3) (rd : Reg) (op : BitVec 7) :
    (Layout.i imm rs1 k rd op).toNat / 2 ^ 0 % 2 ^ 7 = op.toNat ∧
    (Layout.i imm rs1 k rd op).toNat / 2 ^ 12 % 2 ^ 3 = k.toNat :=
  have h := Layout.fields_i imm rs1 k rd op
  ⟨opcode_field h.1, funct3_field h.2.2.1⟩

theorem csrrw (rd : Reg) (csr : CsrAddr) (rs1 : Reg) : Statement (.csrrw rd csr rs1) :=
  have h := itype csr rs1 1#3 rd 0b1110011#7
  two rfl h.1 h.2
theorem csrrs (rd : Reg) (csr : CsrAddr) (rs1 : Reg) : Statement (.csrrs rd csr rs1) :=
  have h := itype csr rs1 2#3 rd 0b1110011#7
  two rfl h.1 h.2
theorem csrrc (rd : Reg) (csr : CsrAddr) (rs1 : Reg) : Statement (.csrrc rd csr rs1) :=
  have h := itype csr rs1 3#3 rd 0b1110011#7
  two rfl h.1 h.2
theorem csrrwi (rd : Reg) (csr : CsrAddr) (uimm : BitVec 5) : Statement (.csrrwi rd csr uimm) :=
  have h := itype csr uimm 5#3 rd 0b1110011#7
  two rfl h.1 h.2
theorem csrrsi (rd : Reg) (csr : CsrAddr) (uimm : BitVec 5) : Statement (.csrrsi rd csr uimm) :=
  have h := itype csr uimm 6#3 rd 0b1110011#7
  two rfl h.1 h.2
theorem csrrci (rd : Reg) (csr : CsrAddr) (uimm : BitVec 5) : Statement (.csrrci rd csr uimm) :=
  have h := itype csr uimm 7#3 rd 0b1110011#7
  two rfl h.1 h.2
theorem lui (rd : Reg) (imm20 : BitVec 20) : Statement (.lui rd imm20) :=
  one rfl (opcode_field (Layout.fields_u imm20 rd 0b0110111#7).1)
theorem addi (rd rs1 : Reg) (imm : BitVec 12) : Statement (.addi rd rs1 imm) :=
  have h := itype imm rs1 0#3 rd 0b0010011#7
  two rfl h.1 h.2
theorem add (rd rs1 rs2 : Reg) : Statement (.add rd rs1 rs2) :=
  have h := Layout.fields_r 0#7 rs2 rs1 0#3 rd 0b0110011#7
  three rfl (opcode_field h.1) (funct3_field h.2.2.1) (funct7_field h.2.2.2.2.2)
theorem andi (rd rs1 : Reg) (imm : BitVec 12) : Statement (.andi rd rs1 imm) :=
  have h := itype imm rs1 7#3 rd 0b0010011#7
  two rfl h.1 h.2
theorem slli (rd rs1 : Reg) (shamt : BitVec 6) : Statement (.slli rd rs1 shamt) :=
  have h := Layout.fields_sh shamt rs1 1#3 rd 0b0010011#7
  three rfl (opcode_field h.1) (funct3_field h.2.2.1) (funct6_field h.2.2.2.2.2)
theorem srli (rd rs1 : Reg) (shamt : BitVec 6) : Statement (.srli rd rs1 shamt) :=
  have h := Layout.fields_sh shamt rs1 5#3 rd 0b0010011#7
  three rfl (opcode_field h.1) (funct3_field h.2.2.1) (funct6_field h.2.2.2.2.2)
theorem lw (rd rs1 : Reg) (imm : BitVec 12) : Statement (.lw rd rs1 imm) :=
  have h := itype imm rs1 2#3 rd 0b0000011#7
  two rfl h.1 h.2
theorem ld (rd rs1 : Reg) (imm : BitVec 12) : Statement (.ld rd rs1 imm) :=
  have h := itype imm rs1 3#3 rd 0b0000011#7
  two rfl h.1 h.2
theorem sw (rs1 rs2 : Reg) (imm : BitVec 12) : Statement (.sw rs1 rs2 imm) :=
  have h := Layout.fields_s imm rs2 rs1 2#3 0b0100011#7
  two rfl (opcode_field h.1) (funct3_field h.2.1)
theorem sd (rs1 rs2 : Reg) (imm : BitVec 12) : Statement (.sd rs1 rs2 imm) :=
  have h := Layout.fields_s imm rs2 rs1 3#3 0b0100011#7
  two rfl (opcode_field h.1) (funct3_field h.2.1)
theorem beq (rs1 rs2 : Reg) (off : BitVec 12) : Statement (.beq rs1 rs2 off) :=
  have h := Layout.fields_b off rs2 rs1 0#3 0b1100011#7
  two rfl (opcode_field h.1) (funct3_field h.2.1)
theorem bne (rs1 rs2 : Reg) (off : BitVec 12) : Statement (.bne rs1 rs2 off) :=
  have h := Layout.fields_b off rs2 rs1 1#3 0b1100011#7
  two rfl (opcode_field h.1) (funct3_field h.2.1)
theorem jal (rd : Reg) (off : BitVec 20) : Statement (.jal rd off) :=
  one rfl (opcode_field (Layout.fields_j off rd 0b1101111#7).1)
theorem ecall : Statement .ecall := one rfl rfl
theorem mret : Statement .mret := one rfl rfl

end Sys2Proof.Laws.EncodeMatchesTable
end

