-- ==== Sys2Proof/Laws/Reset.lean ====
section
/-! SUPPORT. What the list of contexts after reset holds (spec/10_state.md R64). -/

namespace Sys2Proof.Machine

/-- What one more extension adds to the list of contexts: its contexts, each in its power-up state. -/
def addCtxs (l : List (Nat × Ctx)) (e : BitVec 8 × ExtConfig) : List (Nat × Ctx) :=
  (List.range e.2.nContexts).foldl
    (fun l s => Cells.set l (ctxKey e.1 (BitVec.ofNat 8 s)) (Ctx.powerUp e.2)) l

theorem sorted_addCtxs {l : List (Nat × Ctx)} (h : Cells.sorted l) (e : BitVec 8 × ExtConfig) :
    Cells.sorted (addCtxs l e) :=
  List.foldlRecOn _ _ h fun _ hm _ _ => Cells.sorted_set hm _ _

theorem mem_addCtxs {l : List (Nat × Ctx)} {e : BitVec 8 × ExtConfig} {x : Nat × Ctx} (h : x ∈ addCtxs l e) :
    x ∈ l ∨ ∃ i, i < e.2.nContexts ∧ x = (ctxKey e.1 (BitVec.ofNat 8 i), Ctx.powerUp e.2) := by
  refine List.foldlRecOn (motive := fun m => x ∈ m → x ∈ l ∨ ∃ i, i < e.2.nContexts ∧
    x = (ctxKey e.1 (BitVec.ofNat 8 i), Ctx.powerUp e.2)) _ _ .inl (fun m hm i hi hx => ?_) h
  exact (Cells.mem_set hx).elim (fun hx => .inr ⟨i, List.mem_range.mp hi, hx⟩) hm

/-- The list of contexts after reset is in key order. -/
theorem sorted_powerUpCtxs (cfg : Config) : Cells.sorted (powerUpCtxs cfg) :=
  List.foldlRecOn cfg.cxus addCtxs List.Pairwise.nil fun _ h e _ => sorted_addCtxs h e

/-- Every context after reset is one of a configured extension, in its power-up state. -/
theorem mem_powerUpCtxs {cfg : Config} {x : Nat × Ctx} (h : x ∈ powerUpCtxs cfg) :
    ∃ e ∈ cfg.cxus, ∃ i, i < e.2.nContexts ∧ x = (ctxKey e.1 (BitVec.ofNat 8 i), Ctx.powerUp e.2) := by
  refine List.foldlRecOn (motive := fun m => x ∈ m → ∃ e ∈ cfg.cxus, ∃ i, i < e.2.nContexts ∧
    x = (ctxKey e.1 (BitVec.ofNat 8 i), Ctx.powerUp e.2)) cfg.cxus addCtxs (absurd · List.not_mem_nil)
    (fun m hm e he hx => ?_) h
  exact (mem_addCtxs hx).elim hm fun new => ⟨e, he, new⟩

/-- Looking a CXU_ID up finds an entry of the map. -/
theorem mem_of_cxuOf {cfg : Config} {c : BitVec 8} {cx : ExtConfig} (h : cxuOf cfg c = some cx) :
    (c, cx) ∈ cfg.cxus := by
  obtain ⟨before, after, hmap, _⟩ := List.lookup_eq_some_iff.mp h
  simp [hmap]

/-- Where the CXU_IDs are distinct, looking one up finds its entry. -/
theorem cxuOf_of_mem {cfg : Config} {c : BitVec 8} {cx : ExtConfig} (hd : (cfg.cxus.map Prod.fst).Nodup)
    (h : (c, cx) ∈ cfg.cxus) : cxuOf cfg c = some cx := by
  cases hc : cxuOf cfg c with
  | none => simpa using List.lookup_eq_none_iff.mp hc _ h
  | some cx' => exact congrArg (fun e => some e.2) (List.inj_on_of_nodup_map hd (mem_of_cxuOf hc) h rfl)

/-- The two numbers of a context, from its key. -/
theorem ctxKey_div (c i : BitVec 8) : ctxKey c i / 256 = c.toNat ∧ ctxKey c i % 256 = i.toNat := by
  have := i.isLt
  unfold ctxKey
  omega

end Sys2Proof.Machine
end

