-- ==== Sys2Proof/Tests/Slice0.lean ====
section
/-! SUPPORT. Tests on small states: words written out from the encodings, ill-formed instructions, one step each
from the worked vectors of spec/95_test_vectors.md, and for every statement with hypotheses a state and operands that
meet them. -/

namespace Sys2Proof.Tests.Slice0

set_option Elab.async false

open Sys2Proof.Machine

/-! ### Small states -/

/-- The start of the vectors of spec/95_test_vectors.md part 4: a0 = 0x1234, a1 = 5, a2 = 7, and `mtvec` = 0x200. -/
def start : State :=
  { ((State.reset.setX 10 0x1234).setX 11 5).setX 12 7 with mtvec := 0x200 }

/-- `start` with a selector. -/
def sel (v : BitVec 32) : State := { start with mcxSelector := v }

/-- TCX context 0 selected, with the given content. -/
def tcx (acc cnt : BitVec 32) (cs : CtxStatus) : State :=
  (sel 0x20000003).setCtx 3 0 { Ctx.powerUp ExtConfig.tcx with st := tcxState acc cnt, cs := cs }

/-- TCX context 0 selected and off. -/
def off : State := tcx 0 0 .off

/-- TCX context 0 selected, a reset in progress with two steps left. -/
def resetting : State :=
  (sel 0x20000003).setCtx 3 0 { Ctx.powerUp ExtConfig.tcx with rst := true, stepsLeft := 2 }

/-- The context that `mcx_selector` = 0x20000003 names. -/
def ctx0 (s : State) : Ctx := s.ctx ExtConfig.tcx 3 0

/-- The state after the instruction of a word. -/
def run (w : Insn) (s : State) : State :=
  match decodeWord s.cfg w with
  | .error _ => s.undecoded
  | .ok i =>
    match exec i s with
    | .next t => t
    | .fault _ => s
    | .refused _ => s

/-- Ranges refused to user level and to machine level. -/
def guarded : Config :=
  { Config.reference with
    memPolicy := .ranges [
      { level := .user, kind := .load, lo := 0x2000, hi := 0x3000, paged := false },
      { level := .user, kind := .store, lo := 0x2000, hi := 0x3000, paged := false },
      { level := .user, kind := .load, lo := 0x6000, hi := 0x7000, paged := true },
      { level := .machine, kind := .load, lo := 0x5000, hi := 0x6000, paged := false },
      { level := .user, kind := .fetch, lo := 0x7000, hi := 0x8000, paged := false }] }

/-- A machine with those ranges, at user level, with the selector table of the vectors at 0x2000. -/
def user : State :=
  { ((start.write32 0x2004 0x20010003).write32 0x2008 0x3FFFFFFF).setX 11 0x2000 with
    cfg := guarded, priv := .user, mcxTable := 0x2000 }

/-- A 64-bit machine. -/
def wide : State := { start with cfg := Config.reference64 }

/-- A machine with the given parameter changed to "no access control". -/
def open0 : State := { start with cfg := { Config.reference with accessControl := false } }

/-! ### Ill-formed instructions, one for each check of `Instr.wellFormed` -/

theorem test_illformed_standard_cf : (Instr.cxReg 1023 1 2 3).wellFormed Config.reference = false := by decide +kernel
theorem test_illformed_flex25 : (Instr.cxFlex25 0x1234560).wellFormed Config.reference = false := by decide +kernel
theorem test_illformed_shift :
    (Instr.slli 1 2 32).wellFormed Config.reference = false ∧
    (Instr.srli 1 2 63).wellFormed Config.reference = false := by decide +kernel
theorem test_illformed_wide :
    (Instr.ld 1 2 0).wellFormed Config.reference = false ∧
    (Instr.sd 1 2 0).wellFormed Config.reference = false := by decide +kernel
theorem test_illformed_same_cf_ids :
    (Instr.cxReadStatus 1 0 0).wellFormed { Config.reference with cfWriteState := 1023 } = false ∧
    (Instr.cxWriteStatus 1 0 0).wellFormed { Config.reference with cfWriteState := 1023 } = false ∧
    (Instr.cxReadState 1 0 0).wellFormed { Config.reference with cfWriteState := 1023 } = false ∧
    (Instr.cxWriteState 1 0 0).wellFormed { Config.reference with cfWriteState := 1023 } = false := by decide +kernel

/-! ### Decoding of words written out (spec/95_test_vectors.md part 3, spec/45_host_base_subset.md examples) -/

theorem test_decode_cx_reg :
    decodeTableWord 32 0x00C5868B = some (.cxReg 0 13 11 12) ∧
    decodeTableWord 32 0x5473528B = some (.cxReg 341 5 6 7) := by decide +kernel
theorem test_decode_cx_imm :
    decodeTableWord 32 0xFFF5D52B = some (.cxImm 5 10 11 0xFFF) ∧
    decodeTableWord 32 0x7FF5A52B = some (.cxImm 2 10 11 2047) := by decide +kernel
theorem test_decode_cx_flex :
    decodeTableWord 32 0x02C5905B = some (.cxFlex 9 11 12) ∧
    decodeTableWord 32 0x0000005B = some (.cxFlex 0 0 0) := by decide +kernel
theorem test_decode_cx_flex25 :
    decodeTableWord 32 0x91A2B3DB = some (.cxFlex25 0x1234567) ∧
    decodeTableWord 32 0xFFFFFFDB = some (.cxFlex25 0x1FFFFFF) := by decide +kernel
theorem test_decode_custom3 : decodeTableWord 32 0x0000007B = some (.custom3 0) := by decide +kernel
theorem test_decode_standard :
    decodeTableWord 32 0xFE00750B = some (.cxReadStatus 10 0 0) ∧
    decodeTableWord 32 0xFE05E00B = some (.cxWriteStatus 0 11 0) ∧
    decodeTableWord 32 0xFE05D50B = some (.cxReadState 10 11 0) ∧
    decodeTableWord 32 0xFEA5C00B = some (.cxWriteState 0 11 10) := by decide +kernel
theorem test_decode_csr :
    decodeTableWord 32 0xBC009073 = some (.csrrw 0 0xBC0 1) ∧
    decodeTableWord 32 0x80102173 = some (.csrrs 2 0x801 0) ∧
    decodeTableWord 32 0x8015B573 = some (.csrrc 10 0x801 11) ∧
    decodeTableWord 32 0x8000D073 = some (.csrrwi 0 0x800 1) ∧
    decodeTableWord 32 0x80106573 = some (.csrrsi 10 0x801 0) ∧
    decodeTableWord 32 0x801FF073 = some (.csrrci 0 0x801 31) := by decide +kernel
theorem test_decode_arith :
    decodeTableWord 32 0x80000537 = some (.lui 10 0x80000) ∧
    decodeTableWord 32 0xFFF28293 = some (.addi 5 5 0xFFF) ∧
    decodeTableWord 32 0x00B50533 = some (.add 10 10 11) ∧
    decodeTableWord 32 0x00657593 = some (.andi 11 10 6) ∧
    decodeTableWord 32 0x01029293 = some (.slli 5 5 16) ∧
    decodeTableWord 32 0x0102D293 = some (.srli 5 5 16) := by decide +kernel
theorem test_decode_memory :
    decodeTableWord 32 0x0045A503 = some (.lw 10 11 4) ∧
    decodeTableWord 32 0x0005B503 = some (.ld 10 11 0) ∧
    decodeTableWord 32 0x00A42823 = some (.sw 8 10 16) ∧
    decodeTableWord 32 0x00A5B023 = some (.sd 11 10 0) := by decide +kernel
theorem test_decode_control :
    decodeTableWord 32 0x00028C63 = some (.beq 5 0 12) ∧
    decodeTableWord 32 0xFE0298E3 = some (.bne 5 0 0xFF8) ∧
    decodeTableWord 32 0x0000006F = some (.jal 0 0) ∧
    decodeTableWord 32 0x00000073 = some .ecall ∧
    decodeTableWord 32 0x30200073 = some .mret := by decide +kernel
theorem test_decode_rejects :
    decodeWord Config.reference 0 = .error .unknownOpcode ∧
    decodeWord Config.reference 0x00004073 = .error .unknownSystem ∧
    decodeWord Config.reference 0x00100073 = .error .unknownSystem ∧
    decodeWord Config.reference 0x00002013 = .error .unknownFunct3 ∧
    decodeWord Config.reference 0x40000033 = .error .unknownFunct7 ∧
    decode Config.reference [0x73, 0, 0] = .error .truncated := by decide +kernel

/-! ### One step each (the vector's number in spec/95_test_vectors.md, or the example of spec/45) -/

/-- V1.11 -/
theorem test_cx_reg_stateful : let t := run 0x00C5868B (sel 0x20000003)
    t.xr 13 = 12 ∧ ctx0 t = { Ctx.powerUp ExtConfig.tcx with st := tcxState 12 1, cs := .dirty } ∧
    t.cxStatus = 0 ∧ t.pc = 4 := by decide +kernel
/-- V1.4, V1.10 -/
theorem test_cx_reg_errors :
    (run 0x00C5A50B ((sel 0x20000001).setX 12 0)).cxStatus = 0x20 ∧
    (run 0x00C5868B (sel 0x20020003)).cxStatus = 4 := by decide +kernel
/-- V2.1, V2.7 -/
theorem test_cx_imm :
    (run 0x800586AB (sel 0x20000001)).xr 13 = 0xFFFFF805 ∧
    (ctx0 (run 0xFFF5D52B (sel 0x20000003))).error = 0x2A ∧
    (run 0xFFF5D52B (sel 0x20000003)).cxStatus = 0x40 := by decide +kernel
/-- V3.1, V3.10 -/
theorem test_cx_flex :
    (ctx0 (run 0x00C5805B (sel 0x20000003))).st = tcxState 12 1 ∧
    (run 0x00C5805B (sel 0x20000003)).x = (sel 0x20000003).x ∧
    (run 0x00C5805B (sel 0x40000003)).cxStatus = 1 := by decide +kernel
/-- V3.9: `x31` is not written although `insn[11:7]` = 31 -/
theorem test_cx_flex25 :
    (run 0xFFFFFFDB (sel 0x20000001)).cxStatus = 0x10 ∧ (run 0xFFFFFFDB (sel 0x20000001)).xr 31 = 0 := by decide +kernel
/-- V4.2, V4.4 -/
theorem test_custom3 :
    (run 0x0000007B (sel 0x20000001)).mcause = 2 ∧ (run 0x0000007B (sel 0x20000001)).mtval = 0x7B ∧
    (run 0x0000007B (sel 0x40000003)).cxStatus = 1 := by decide +kernel
/-- V7.1, V7.2 -/
theorem test_cx_read_status :
    (run 0xFE00750B (tcx 0 0 .initial)).xr 10 = 0x08000002 ∧
    (run 0xFE00750B (tcx 12 1 .dirty)).xr 10 = 0x18000002 := by decide +kernel
/-- V7.9 -/
theorem test_cx_write_status :
    ctx0 (run 0xFE05E00B ((tcx 12 1 .dirty).setX 11 0x10000000)) =
      { Ctx.powerUp ExtConfig.tcx with st := tcxState 12 1, cs := .clean } := by decide +kernel
/-- V7.3 -/
theorem test_cx_read_state : (run 0xFE05D50B ((tcx 12 1 .dirty).setX 11 1)).xr 10 = 1 := by decide +kernel
/-- V7.8 -/
theorem test_cx_write_state : let t := run 0xFEA5C60B (((tcx 12 7 .initial).setX 11 1).setX 10 100)
    (ctx0 t).st = tcxState 12 100 ∧ (ctx0 t).cs = .dirty ∧ t.xr 12 = 100 := by decide +kernel
/-- V5.10, V6.8 -/
theorem test_csrrw :
    (run 0xBC059573 ((sel 0x20000003).setX 11 0xFFFFFFFF)).mcxSelector = 0xF0FF00FF ∧
    (run 0xBC059573 ((sel 0x20000003).setX 11 0xFFFFFFFF)).cxStatus = 1 ∧
    (ctx0 (run 0x5FE51073 ((sel 0x20000003).setX 10 5))).index = 0 := by decide +kernel
/-- V5.5, V6.13 -/
theorem test_csrrs :
    (run 0x8015A573 ({ start with cxStatus := 1 }.setX 11 0x180)).cxStatus = 1 ∧
    (ctx0 (run 0x5FD5A573 ((tcx 100 0 .initial).setX 11 0x0F))).st = tcxState 111 0 := by decide +kernel
/-- V5.3 -/
theorem test_csrrc : let t := run 0x8015B573 ({ start with cxStatus := 0x12 }.setX 11 2)
    t.xr 10 = 0x12 ∧ t.cxStatus = 0x10 := by decide +kernel
/-- V5.16 at user level, and the same index where machine level may not load the entry (V5.22) -/
theorem test_csrrwi :
    (run 0x8000D073 user).cxIndex = 1 ∧ (run 0x8000D073 user).mcxSelector = 0x20010003 ∧
    (run 0x8000D073 { user with mcxTable := 0x5000 }).mcause = 5 ∧
    (run 0x8000D073 { user with mcxTable := 0x5000 }).mtval = 0x5004 := by decide +kernel
/-- V5.7 -/
theorem test_csrrsi : let t := run 0x80106573 { start with cxStatus := 0x30 }
    t.xr 10 = 0x30 ∧ t.cxStatus = 0x30 := by decide +kernel
/-- V5.6, V6.14 -/
theorem test_csrrci :
    (run 0x801FF073 { start with cxStatus := 0x7F }).cxStatus = 0x60 ∧
    (ctx0 (run 0x5FD0F573 (tcx 111 0 .initial))).st = tcxState 110 0 := by decide +kernel
/-- R305: sign-extended where XLEN = 64 -/
theorem test_lui : (run 0x80000537 start).xr 10 = 0x80000000 ∧
    (run 0x80000537 wide).xr 10 = 0xFFFFFFFF80000000 := by decide +kernel
/-- R306 -/
theorem test_addi : (run 0xFFF28293 (start.setX 5 2)).xr 5 = 1 ∧
    (run 0xFFF28293 start).xr 5 = 0xFFFFFFFF := by decide +kernel
/-- R307: wraps -/
theorem test_add : (run 0x00B50533 ((start.setX 10 0xFFFFFFFF).setX 11 1)).xr 10 = 0 := by decide +kernel
/-- R308 -/
theorem test_andi : (run 0x00657593 (start.setX 10 0x0C)).xr 11 = 4 := by decide +kernel
/-- R309 -/
theorem test_slli : (run 0x01029293 (start.setX 5 0x18000002)).xr 5 = 0x00020000 ∧
    (run 0x02029293 start).mcause = 2 := by decide +kernel
/-- R310 -/
theorem test_srli : (run 0x0102D293 (start.setX 5 0x80020000)).xr 5 = 0x8002 := by decide +kernel
/-- V8.5: user code cannot read its selectors; and a word read little-endian -/
theorem test_lw :
    (run 0x0045A503 user).mcause = 5 ∧ (run 0x0045A503 user).mtval = 0x2004 ∧
    (run 0x0045A503 { user with priv := .machine }).xr 10 = 0x20010003 := by decide +kernel
/-- R312 -/
theorem test_ld :
    (run 0x0005B503 ((wide.write64 0x1000 0x8877665544332211).setX 11 0x1000)).xr 10 = 0x8877665544332211 ∧
    (run 0x0005B503 start).mcause = 2 := by decide +kernel
/-- R313 -/
theorem test_sw : let t := run 0x00C5A023 ((start.setX 11 0x1000).setX 12 0x44332211)
    t.mem = [(0x1000, 0x11), (0x1001, 0x22), (0x1002, 0x33), (0x1003, 0x44)] := by decide +kernel
/-- R314, R318: 0x1004 is no multiple of 8 -/
theorem test_sd :
    (run 0x00A5B023 (wide.setX 11 0x1004)).mcause = 6 ∧
    Memory.read (run 0x00A5B023 (wide.setX 11 0x1000)).mem 0x1001 = 0x12 := by decide +kernel
/-- R315: taken, and a target that is 2 modulo 4 -/
theorem test_beq : (run 0x00028C63 start).pc = 24 ∧ (run 0x00028163 start).mcause = 0 ∧
    (run 0x00028163 start).pc = 0x200 := by decide +kernel
/-- R316: backwards, and not taken -/
theorem test_bne : (run 0xFE0298E3 { start.setX 5 1 with pc := 0x100 }).pc = 0xF0 ∧
    (run 0xFE0298E3 start).pc = 4 := by decide +kernel
/-- R317: links `pc + 4` -/
theorem test_jal : let t := run 0xFF1FF0EF { start with pc := 0x100 }
    t.pc = 0xF0 ∧ t.xr 1 = 0x104 := by decide +kernel
/-- V8.4 -/
theorem test_ecall : let t := run 0x00000073 { user with pc := 0x110 }
    t.mcause = 8 ∧ t.mepc = 0x110 ∧ t.mtval = 0 ∧ t.pc = 0x200 ∧ t.priv = .machine := by decide +kernel
/-- V8.3 -/
theorem test_mret :
    let t := run 0x30200073 { start with mepc := 0x110, mstatus := mstatusOf false true .user }
    t.priv = .user ∧ t.pc = 0x110 ∧ t.mstatus = mstatusOf true true .user := by decide +kernel

/-! ### Reset and the step -/

/-- R63, R64, R65 -/
theorem test_reset :
    State.reset.pc = 0 ∧ State.reset.priv = .machine ∧ State.reset.mcxSelector = 0 ∧ State.reset.mem = [] ∧
    State.reset.text = [] ∧
    State.reset.ctxs = [(768, Ctx.powerUp ExtConfig.tcx), (769, Ctx.powerUp ExtConfig.tcx)] := by decide +kernel
/-- V6.17: a reset with two steps left is in progress for two more steps, then the context is in its power-up state -/
theorem test_reset_steps :
    (ctx0 resetting.tick.tick).rst = true ∧ ctx0 resetting.tick.tick.tick = Ctx.powerUp ExtConfig.tcx := by decide +kernel
/-- A placed word is fetched and run. -/
theorem test_step_runs : (match step (start.withFetchWord 32 0x00B50533) with
    | .next t => t.xr 10
    | _ => 0) = 0x1239 := by decide +kernel
/-- R98: a store to the address of the next instruction is loaded back, and fetched never. -/
theorem test_text_immutable : let t := run 0x00C5A023 ((start.setX 11 4).withFetchWord 32 0x00C5A023)
    t.pc = 4 ∧ t.read32 4 = 7 ∧ t.fetchWord = 0 ∧ t.text = [(0, 0x23), (1, 0xA0), (2, 0xC5)] := by decide +kernel
/-- The listed bytes of memory stay in canonical form: storing zeros removes the entries. -/
theorem test_memory_canonical : ((start.write32 0x1000 0x44332211).write32 0x1000 0).mem = [] := by decide +kernel

/-! ### For every statement with hypotheses, states and operands that meet them (Certificates/Slice0/Obligations.lean) -/

/-- A stateful extension with a CX CSR of its own, one with identity CSRs, and a stateless one with both. -/
def own : ExtConfig := { ExtConfig.tcx with cxGuid := 3, cxuGuid := 3, validCsrs := [0x8C0] }
def named : ExtConfig := { ExtConfig.tcx with cxGuid := 4 <<< 96 ||| 5, cxuGuid := 6, identity := true }
def plain : ExtConfig :=
  { ExtConfig.tsl with cxGuid := 7, cxuGuid := 8 <<< 32, validCsrs := [0x8FF, 0xFFE], identity := true }

/-- The configuration with these three extensions and three identity CSRs. -/
def more : Config :=
  { Config.reference with
    cxus := [(1, ExtConfig.tsl), (3, ExtConfig.tcx), (7, own), (8, plain), (255, named)]
    guidCsrs := [{ addr := 0xFC0, which := .cx, word := 0 }, { addr := 0xFC1, which := .cxu, word := 1 },
      { addr := 0xFFF, which := .cx, word := 3 }] }

/-- A machine with that configuration and a selector. -/
def more7 (v : BitVec 32) : State :=
  { State.resetOf { ResetParams.reference with cfg := more } with mcxSelector := v }

/-- A configuration with all three levels. -/
def threeLevels : State := { start with cfg := { Config.reference with modes := .msu } }

/-- `Selects` from what one evaluation of `mcx_selector` shows. -/
theorem selects_of {s : State} {cx : ExtConfig}
    (h : (selVersion s.mcxSelector = 1 ∧ selCxe s.mcxSelector = false) ∧
      cxuOf s.cfg (selCxuId s.mcxSelector) = some cx ∧ validState cx (selStateId s.mcxSelector) = true) :
    Selects s cx where
  version := h.1.1
  cxe := h.1.2
  cxu := h.2.1
  state := h.2.2

/-- `SelectsActive` from the selection and one evaluation of the context. -/
theorem active_of {s : State} {cx : ExtConfig} (h : Selects s cx)
    (hc : cx.stateful = true ∧ (s.selectedCtx cx).cs ≠ .off ∧ (s.selectedCtx cx).rst = false) :
    SelectsActive s cx where
  toSelects := h
  stateful := hc.1
  on := hc.2.1
  idle := hc.2.2

theorem test_selects_tsl : Selects (sel 0x20000001) ExtConfig.tsl := selects_of (by decide +kernel)
theorem test_selects_tsl_state_255 : Selects (sel 0x20FF0001) ExtConfig.tsl := selects_of (by decide +kernel)
theorem test_selects_tcx_first : Selects (sel 0x20000003) ExtConfig.tcx := selects_of (by decide +kernel)
theorem test_selects_tcx (a n : BitVec 32) (cs : CtxStatus) : Selects (tcx a n cs) ExtConfig.tcx :=
  have h := test_selects_tcx_first
  selects_of ⟨⟨h.version, h.cxe⟩, h.cxu, h.state⟩
theorem test_selects_resetting : Selects resetting ExtConfig.tcx := selects_of (by decide +kernel)
theorem test_selects_plain : Selects (more7 0x20000008) plain := selects_of (by decide +kernel)
theorem test_active_tcx : SelectsActive (tcx 12 1 .dirty) ExtConfig.tcx :=
  active_of (test_selects_tcx _ _ _) (by decide +kernel)
theorem test_active_own : SelectsActive (more7 0x20010007) own :=
  active_of (selects_of (by decide +kernel)) (by decide +kernel)
theorem test_active_named : SelectsActive (more7 0x200100FF) named :=
  active_of (selects_of (by decide +kernel)) (by decide +kernel)

/-- The six CSR instructions at one address: written, set, cleared, and the three forms that only read. -/
theorem test_csr_forms (s : State) (a : CsrAddr) :
    CsrForm s (.csrrw 10 a 11) a 10 .write (s.xr 11) ∧ CsrForm s (.csrrs 10 a 11) a 10 .set (s.xr 11) ∧
    CsrForm s (.csrrc 10 a 11) a 10 .clear (s.xr 11) ∧ CsrForm s (.csrrwi 10 a 31) a 10 .write 31 ∧
    CsrForm s (.csrrsi 10 a 31) a 10 .set 31 ∧ CsrForm s (.csrrci 10 a 31) a 10 .clear 31 ∧
    CsrForm s (.csrrs 10 a 0) a 10 .read (s.xr 0) ∧ CsrForm s (.csrrc 10 a 0) a 10 .read (s.xr 0) ∧
    CsrForm s (.csrrsi 10 a 0) a 10 .read 0 ∧ CsrForm s (.csrrci 10 a 0) a 10 .read 0 :=
  ⟨.w .., .s .., .c .., .wi .., .si .., .ci .., .s .., .c .., .si .., .ci ..⟩

/-- The eight custom function instructions of the reference configuration's functions. -/
theorem test_cf_forms (s : State) (h : s.cfg = Config.reference) :
    CfForm s (.cxReg 0 13 11 12) 0 (s.xr 11) (s.xr 12) (some 13) ∧
    CfForm s (.cxImm 1 13 11 0x800) 1 (s.xr 11) 0xFFFFF800 (some 13) ∧
    CfForm s (.cxFlex 1023 11 12) 1023 (s.xr 11) (s.xr 12) none ∧
    CfForm s (.cxFlex25 0x1FFFFFF) 1023 (s.xr 31) (s.xr 31) none ∧
    CfForm s (.cxReadStatus 10 0 0) 1023 (s.xr 0) (s.xr 0) (some 10) ∧
    CfForm s (.cxWriteStatus 0 11 0) 1022 (s.xr 11) (s.xr 0) (some 0) ∧
    CfForm s (.cxReadState 10 11 0) 1021 (s.xr 11) (s.xr 0) (some 10) ∧
    CfForm s (.cxWriteState 0 11 10) 1020 (s.xr 11) (s.xr 10) (some 0) := by
  obtain ⟨hart, cfg, mem, text, ctxs, draws⟩ := s
  obtain rfl : cfg = Config.reference := h
  exact ⟨.reg .., .imm .., .flex .., .flex25 .., .readStatus .., .writeStatus .., .readState .., .writeState ..⟩

/-- The custom operations: each of the above, a custom-3 word, a custom CSR access. -/
theorem test_custom_forms (s : State) (h : s.cfg = Config.reference) :
    CustomOpForm s (.cxReg 0 13 11 12) (some 13) ∧ CustomOpForm s (.cxImm 1 13 11 0x800) (some 13) ∧
    CustomOpForm s (.cxFlex 1023 11 12) none ∧ CustomOpForm s (.cxFlex25 0x1FFFFFF) none ∧
    CustomOpForm s (.custom3 0) none ∧ CustomOpForm s (.cxReadStatus 10 0 0) (some 10) ∧
    CustomOpForm s (.cxWriteStatus 0 11 0) (some 0) ∧ CustomOpForm s (.cxReadState 10 11 0) (some 10) ∧
    CustomOpForm s (.cxWriteState 0 11 10) (some 0) ∧ CustomOpForm s (.csrrw 10 0x8FF 11) (some 10) := by
  obtain ⟨h1, h2, h3, h4, h5, h6, h7, h8⟩ := test_cf_forms s h
  refine ⟨.cf h1, .cf h2, .cf h3, .cf h4, .custom3 _, .cf h5, .cf h6, .cf h7, .cf h8,
    .csr (test_csr_forms s 0x8FF).1 (by decide +kernel) ⟨?_, by decide +kernel⟩⟩
  show (0#2 : BitVec 2) ≤ _
  cases s.priv <;> decide

/-- A stateless extension: what R8 and R255 ask of the states of a context is asked of none. -/
theorem test_tsl_wf : ExtConfig.WF Config.reference ExtConfig.tsl where
  contexts := by decide +kernel
  errorW := Nat.zero_le _
  indexW := Nat.zero_le _
  cfs := nofun
  csrs := nofun
  states := nofun
  reload := nofun
theorem test_tcx_wf : ExtConfig.WF Config.reference ExtConfig.tcx where
  contexts := by decide +kernel
  errorW := by decide +kernel
  indexW := by decide +kernel
  cfs := by decide +kernel
  csrs := nofun
  states := fun _ => ExtConfig.stateLaws_of_tcx rfl
  reload := fun _ st st' held _ _ => ExtConfig.reload_of_tcx rfl _ st st' held

/-- The two extensions of the reference configuration. -/
theorem test_reference_cxus {e : BitVec 8 × ExtConfig} (he : e ∈ Config.reference.cxus) :
    e = (1, ExtConfig.tsl) ∨ e = (3, ExtConfig.tcx) := by simpa [Config.reference] using he
/-- They have two CX_GUIDs, and the test layout has room for the error of each. -/
theorem test_reference_guids : (∀ e ∈ Config.reference.cxus, ∀ e' ∈ Config.reference.cxus,
      e.2.cxGuid = e'.2.cxGuid → e = e') ∧ ∀ e ∈ Config.reference.cxus, e.2.errorW ≤ 8 := by decide +kernel

theorem test_reference_wf : Config.reference.WF where
  standardCfs := by decide +kernel
  accessControl := fun _ => ⟨by decide +kernel, 0x2000,
    Config.protectsTable_reference rfl (by decide +kernel) (by decide +kernel)⟩
  cxuIds := by decide +kernel
  extensions := fun _ he => (test_reference_cxus he).elim (· ▸ test_tsl_wf) (· ▸ test_tcx_wf)
  identity := fun e he e' he' h => test_reference_guids.1 e he e' he' h ▸ .refl _ _
  statusWord := fun e he _ => statusUnpack_pack_test rfl (test_reference_guids.2 e he)
  guids := by decide +kernel
  guidAddrs := by decide +kernel

/-- R84: user level loads at the next higher level of `MODES`, every other level at machine level. -/
theorem test_cxidx_priv :
    cxidxPriv threeLevels.cfg .user = .supervisor ∧ cxidxPriv Config.reference .user = .machine ∧
    cxidxPriv threeLevels.cfg .supervisor = .machine ∧ cxidxPriv threeLevels.cfg .machine = .machine := by
  decide +kernel

theorem test_hyp_DecodeOfEncode :
    (∀ i ∈ [Instr.cxReg 1019 31 31 31, .cxImm 7 31 31 0xFFF, .cxFlex 1023 31 31, .cxFlex25 0x1FFFFFF,
      .custom3 0x1FFFFFF, .cxReadStatus 31 31 31, .cxWriteStatus 31 31 31, .cxReadState 31 31 31,
      .cxWriteState 31 31 31, .csrrw 31 0xFFF 31, .csrrs 31 0xFFF 31, .csrrc 31 0xFFF 31, .csrrwi 31 0xFFF 31,
      .csrrsi 31 0xFFF 31, .csrrci 31 0xFFF 31, .lui 31 0xFFFFF, .addi 31 31 0xFFF, .add 31 31 31,
      .andi 31 31 0xFFF, .slli 31 31 31, .srli 31 31 31, .lw 31 31 0xFFF, .sw 31 31 0xFFF,
      .beq 31 31 0xFFF, .bne 31 31 0xFFF, .jal 31 0xFFFFF, .ecall, .mret],
      i.wellFormed Config.reference = true) ∧
    (∀ i ∈ [Instr.ld 31 31 0xFFF, .sd 31 31 0xFFF, .slli 31 31 63, .srli 31 31 63],
      i.wellFormed Config.reference64 = true) := by decide +kernel
theorem test_hyp_EncodeOfDecode :
    decodeWord Config.reference 0x5473528B = .ok (.cxReg 341 5 6 7) := by decide +kernel
theorem test_hyp_CustomWordsDecode :
    (0xFFFFFF8B : Insn).extractLsb' 0 7 = 0b0001011#7 ∧ (0x7FF5A52B : Insn).extractLsb' 0 7 = 0b0101011#7 ∧
    (0x91A2B3DB : Insn).extractLsb' 0 7 = 0b1011011#7 ∧ (0xFFFFFFFB : Insn).extractLsb' 0 7 = 0b1111011#7 ∧
    (∀ f ∈ [1#3, 2#3, 3#3, 5#3, 6#3, 7#3],
      (0xFFF#12 ++ 31#5 ++ f ++ 31#5 ++ 0b1110011#7).extractLsb' 0 7 = 0b1110011#7 ∧
      (0xFFF#12 ++ 31#5 ++ f ++ 31#5 ++ 0b1110011#7).extractLsb' 12 3 = f) := by decide +kernel
theorem test_hyp_StepRunsDecoded : let s := start.withFetchWord 32 0x00B50533
    (s.fetchAllowed = true ∧ decode s.cfg s.fetchBytes = .ok (.add 10 10 11)) ∧
    (let s := start.withFetchWord 32 0x0005B503
     s.fetchAllowed = true ∧ decode s.cfg s.fetchBytes = .ok (.ld 10 11 0) ∧
       (Instr.ld 10 11 0).wellFormed s.cfg = false) := by decide +kernel
theorem test_hyp_FetchExceptions :
    start.fetchAllowed = true ∧ decode start.cfg start.fetchBytes = .error .unknownOpcode ∧
    State.fetchAllowed { user with pc := 0x7000 } = false ∧ State.fetchAllowed { user with pc := 0x7FFC } = false ∧
    State.fetchAllowed { user with pc := 0x6FFC } = true ∧ State.fetchAllowed { user with pc := 0x8000 } = true := by
  decide +kernel

/-- A running machine: an instruction stored at `pc`, a context that is off with a full error register. -/
def running : State := (tcx 12 1 .off).withFetchWord 32 0x00B50533

/-- The two contexts of TCX are all that is listed, and each fits its bits. -/
theorem test_running_ctxs : ∀ e ∈ running.ctxs, e.1 < 65536 ∧
    cxuOf running.cfg (BitVec.ofNat 8 (e.1 / 256)) = some ExtConfig.tcx ∧ e.1 % 256 < ExtConfig.tcx.nContexts ∧
    ExtConfig.tcx.errBits running.cfg.xlen e.2.error = e.2.error ∧
    keepLow16 ExtConfig.tcx.indexW e.2.index = e.2.index := by decide +kernel
/-- The invariant of that machine, field by field. -/
theorem test_running_inv : running.Inv where
  xZero := by decide +kernel
  xWidth := by decide +kernel
  pcWidth := rfl
  pcAligned := rfl
  level := rfl
  selector := by decide +kernel
  status := rfl
  table := rfl
  index := rfl
  mstatus := ⟨false, false, .user, rfl, rfl⟩
  mtvec := rfl
  mscratch := rfl
  mepc := rfl
  mcause := rfl
  mtval := rfl
  mem := by decide +kernel
  memBound := by decide +kernel
  text := by decide +kernel
  textBound := by decide +kernel
  ctxOrder := by decide +kernel
  ctxOk := fun e he => ⟨(test_running_ctxs e he).1, ExtConfig.tcx, (test_running_ctxs e he).2⟩

/-- The premises of the two statements about every step: the invariant holds, and the step goes on. -/
theorem test_hyp_StepKeepsInvariant : running.Inv ∧ ∃ t, step running = .next t := by
  have h : running.tick.fetchAllowed = true ∧
      decode running.tick.cfg running.tick.fetchBytes = .ok (.add 10 10 11) := by decide +kernel
  refine ⟨test_running_inv, ?_⟩
  unfold step State.hartStep
  rw [if_pos h.1, h.2]
  exact ⟨_, rfl⟩
theorem test_hyp_StepKeepsConfiguration : ∃ t, step running = .next t := test_hyp_StepKeepsInvariant.2
theorem test_hyp_EveryResetMeetsInvariant :
    ({ ResetParams.reference with
        pc := 0xFFFFFFFFFFFFFFFF, x := Vector.replicate 32 0xFFFFFFFFFFFFFFFF, mpp := .supervisor } :
      ResetParams).cfg.WF := test_reference_wf
theorem test_hyp_ResetOfTheHart :
    norm ResetParams.reference.cfg.xlen 0xFFFFFFFC = 0xFFFFFFFC ∧ 0xFFFFFFFC &&& 3#64 = 0 := by decide +kernel
theorem test_hyp_ResetOfTheContexts :
    ResetParams.reference.cfg.WF ∧ cxuOf ResetParams.reference.cfg 3 = some ExtConfig.tcx ∧
    (1#8).toNat < ExtConfig.tcx.nContexts := ⟨test_reference_wf, by decide +kernel, by decide +kernel⟩

theorem test_hyp_ShiftResults :
    (31#6).toNat < xlenBits start.cfg.xlen ∧ xlenBits start.cfg.xlen ≤ (32#6).toNat ∧
    (63#6).toNat < xlenBits wide.cfg.xlen := by decide +kernel
/-- `x11` is 0x2000: the word just below the range refused to user level is allowed, as is all at machine level. -/
theorem test_hyp_LoadResults :
    (user.effAddr 11 0xFFC).toNat % 4 = 0 ∧
    memCheck user.cfg user.priv (user.effAddr 11 0xFFC) 4 .load = .allowed ∧
    (let s := wide.setX 11 0xFFFFFFFFFFFFFFF8
     s.cfg.xlen = .rv64 ∧ (s.effAddr 11 0).toNat % 8 = 0 ∧
     memCheck s.cfg s.priv (s.effAddr 11 0) 8 .load = .allowed) := by decide +kernel
theorem test_hyp_StoreResults :
    (user.effAddr 11 0xFFC).toNat % 4 = 0 ∧
    memCheck user.cfg user.priv (user.effAddr 11 0xFFC) 4 .store = .allowed ∧
    (let s := wide.setX 11 0xFFFFFFFFFFFFFFF8
     s.cfg.xlen = .rv64 ∧ (s.effAddr 11 0).toNat % 8 = 0 ∧
     memCheck s.cfg s.priv (s.effAddr 11 0) 8 .store = .allowed) := by decide +kernel
/-- The user-level machine of the refused ranges, 64 bits wide. -/
def userWide : State := { user with cfg := { guarded with xlen := .rv64, basePageBits := 52 } }
theorem test_hyp_LoadStoreExceptions :
    (user.effAddr 11 1).toNat % 4 ≠ 0 ∧
    ((user.effAddr 11 0).toNat % 4 = 0 ∧
      memCheck user.cfg user.priv (user.effAddr 11 0) 4 .load = .accessFault ∧
      memCheck user.cfg user.priv (user.effAddr 11 0) 4 .store = .accessFault) ∧
    (let s := user.setX 11 0x6FFC
     (s.effAddr 11 0).toNat % 4 = 0 ∧ memCheck s.cfg s.priv (s.effAddr 11 0) 4 .load = .pageFault) ∧
    (userWide.cfg.xlen = .rv64 ∧ (userWide.effAddr 11 4).toNat % 8 ≠ 0 ∧
      (userWide.effAddr 11 0).toNat % 8 = 0 ∧
      memCheck userWide.cfg userWide.priv (userWide.effAddr 11 0) 8 .load = .accessFault ∧
      memCheck userWide.cfg userWide.priv (userWide.effAddr 11 0) 8 .store = .accessFault) ∧
    (let s := userWide.setX 11 0x6FF8
     (s.effAddr 11 0).toNat % 8 = 0 ∧ memCheck s.cfg s.priv (s.effAddr 11 0) 8 .load = .pageFault) ∧
    start.cfg.xlen = .rv32 := by decide +kernel
/-- `x5` = `x0` = 0 in `start`: `beq` is taken to 24 and to 2, `bne` is not; with `x5` = 1 the other way round. -/
theorem test_hyp_BranchResults :
    start.xr 5 = start.xr 0 ∧ (start.setX 5 1).xr 5 ≠ (start.setX 5 1).xr 0 ∧
    norm start.cfg.xlen (start.pc + (0x7FE#12 ++ 0#1).signExtend 64) &&& 3#64 = 0 ∧
    norm start.cfg.xlen (start.pc + (0x801#12 ++ 0#1).signExtend 64) &&& 3#64 ≠ 0 := by decide +kernel
theorem test_hyp_JalResult :
    norm start.cfg.xlen (start.pc + (0x7FFFE#20 ++ 0#1).signExtend 64) &&& 3#64 = 0 ∧
    norm start.cfg.xlen (start.pc + (0x80001#20 ++ 0#1).signExtend 64) &&& 3#64 ≠ 0 := by decide +kernel
theorem test_hyp_MretResult :
    start.priv = .machine ∧ mstatusMpp? start.mstatus = some .user ∧ user.priv ≠ .machine := by decide +kernel

/-- A user-level access of a machine CSR, and a machine-level write of a read-only address. -/
theorem test_hyp_CsrCheckTraps :
    (CsrForm user (.csrrs 10 0x300 0) 0x300 10 .read (user.xr 0) ∧
      privCode user.priv < (0x300 : CsrAddr).extractLsb' 8 2) ∧
    (CsrForm start (.csrrwi 10 0xFFF 31) 0xFFF 10 .write 31 ∧ (0xFFF : CsrAddr).extractLsb' 10 2 = 3#2) :=
  ⟨⟨(test_csr_forms user 0x300).2.2.2.2.2.2.1, by decide +kernel⟩,
    ⟨(test_csr_forms start 0xFFF).2.2.2.1, by decide +kernel⟩⟩
theorem test_hyp_CxStatusAccess :
    CsrForm user (.csrrw 10 0x801 11) 0x801 10 .write (user.xr 11) ∧
    CsrForm running (.csrrs 10 0x801 0) 0x801 10 .read (running.xr 0) ∧ running.Inv :=
  ⟨(test_csr_forms user 0x801).1, (test_csr_forms running 0x801).2.2.2.2.2.2.1, test_running_inv⟩
theorem test_hyp_McxSelectorAccess :
    CsrForm start (.csrrsi 10 0xBC0 31) 0xBC0 10 .set 31 ∧ start.priv = .machine :=
  ⟨(test_csr_forms start 0xBC0).2.2.2.2.1, by decide +kernel⟩
theorem test_hyp_McxTableAccess :
    CsrForm start (.csrrc 10 0xBC1 11) 0xBC1 10 .clear (start.xr 11) ∧ start.priv = .machine ∧
    start.cfg.accessControl = true ∧ xlenBits start.cfg.xlen ≤ 12 + start.cfg.basePageBits :=
  ⟨(test_csr_forms start 0xBC1).2.2.1, by decide +kernel⟩
/-- A read, and a user-level write of index 31 whose implied load, at machine level, is allowed. -/
theorem test_hyp_CxIndexAccess :
    CsrForm user (.csrrs 10 0x800 0) 0x800 10 .read (user.xr 0) ∧
    CsrForm user (.csrrwi 10 0x800 31) 0x800 10 .write 31 ∧ user.cfg.accessControl = true ∧
    memCheck user.cfg (cxidxPriv user.cfg user.priv)
      (user.entryAddr ((accessed .write (zextX user.cxIndex) 31).extractLsb' 0 10)) 4 .load = .allowed :=
  ⟨(test_csr_forms user 0x800).2.2.2.2.2.2.1, (test_csr_forms user 0x800).2.2.2.1, by decide +kernel⟩
/-- The table lies in a range that machine level may not load. -/
theorem test_hyp_CxIndexFault : let s : State := { user with mcxTable := 0x5000 }
    CsrForm s (.csrrwi 10 0x800 31) 0x800 10 .write 31 ∧ s.cfg.accessControl = true ∧
    memCheck s.cfg (cxidxPriv s.cfg s.priv)
      (s.entryAddr ((accessed .write (zextX s.cxIndex) 31).extractLsb' 0 10)) 4 .load = .accessFault :=
  ⟨(test_csr_forms _ 0x800).2.2.2.1, by decide +kernel⟩
theorem test_hyp_NoAccessControlTraps :
    CsrForm open0 (.csrrw 10 0x800 11) 0x800 10 .write (open0.xr 11) ∧
    CsrForm open0 (.csrrw 10 0xBC1 11) 0xBC1 10 .write (open0.xr 11) ∧ open0.cfg.accessControl = false :=
  ⟨(test_csr_forms open0 0x800).1, (test_csr_forms open0 0xBC1).1, by decide +kernel⟩
theorem test_hyp_BaseCsrAccess : start.priv = .machine ∧
    ∀ a ∈ [(0x300 : CsrAddr), 0x305, 0x340, 0x341, 0x342, 0x343],
      CsrForm start (.csrrw 10 a 11) a 10 .write (start.xr 11) :=
  ⟨by decide +kernel, fun a _ => (test_csr_forms start a).1⟩
/-- R162, R163: the first and the last address of each range are custom CSR addresses, those just outside are not, nor
are the four of the CX-ISA CSRs. -/
theorem test_custom_addresses :
    [0x802#12, 0x8FF, 0xCC0, 0xCFF, 0x5C0, 0x5FF, 0x9C0, 0x9FF, 0xDC0, 0xDFF, 0x6C0, 0x6FF, 0xAC0, 0xAFF, 0xEC0, 0xEFF,
      0x7C0, 0x7FF, 0xBC2, 0xBFF, 0xFC0, 0xFFF].all isCustomCsr = true ∧
    [0x800#12, 0x801, 0xBC0, 0xBC1, 0x7BF, 0x900, 0xCBF, 0xD00, 0x5BF, 0x600, 0x9BF, 0xA00, 0xDBF, 0xE00, 0x6BF, 0x700,
      0xABF, 0xB00, 0xEBF, 0xF00, 0xBBF, 0xC00, 0xFBF].any isCustomCsr = false := by decide +kernel
/-- The address just above a range is in none. -/
theorem test_hyp_AbsentCsrTraps :
    CsrForm start (.csrrw 10 0x600 11) 0x600 10 .write (start.xr 11) ∧
    [(0x800#12, 0x8FF#12), (0xCC0, 0xCFF), (0x5C0, 0x5FF), (0x9C0, 0x9FF), (0xDC0, 0xDFF), (0x6C0, 0x6FF), (0xAC0, 0xAFF),
        (0xEC0, 0xEFF), (0x7C0, 0x7FF), (0xBC0, 0xBFF), (0xFC0, 0xFFF)].any
      (fun r => decide (r.1 ≤ 0x600#12) && decide (0x600#12 ≤ r.2)) = false ∧
    (0x600 : CsrAddr) ∉ [(0x300 : CsrAddr), 0x305, 0x340, 0x341, 0x342, 0x343] :=
  ⟨(test_csr_forms start 0x600).1, by decide +kernel⟩

theorem test_hyp_CxeTraps : CustomOpForm (sel 0x30000003) (.custom3 0) none ∧
    selVersion (sel 0x30000003).mcxSelector = 1 ∧ selCxe (sel 0x30000003).mcxSelector = true ∧
    selVersion (sel 0x10000000).mcxSelector = 0 ∧ selCxe (sel 0x10000000).mcxSelector = true :=
  ⟨.custom3 _, by decide +kernel⟩
theorem test_hyp_ReservedVersionResult :
    CustomOpForm (sel 0x40000003) (.cxReg 0 13 11 12) (some 13) ∧
    2 ≤ (selVersion (sel 0x40000003).mcxSelector).toNat ∧ 2 ≤ (selVersion (sel 0xF0000003).mcxSelector).toNat :=
  ⟨(test_custom_forms _ rfl).1, by decide +kernel⟩
theorem test_hyp_BuiltinResult :
    CustomOpForm start (.cxReg 0 13 11 12) (some 13) ∧ CustomOpForm (sel 0x20000003) (.custom3 7) none ∧
    selCxe start.mcxSelector = false ∧ selVersion start.mcxSelector = 0 ∧
    selCxe (sel 0x20000003).mcxSelector = false ∧ selVersion (sel 0x20000003).mcxSelector = 1 :=
  ⟨(test_custom_forms _ rfl).1, .custom3 _, by decide +kernel⟩
/-- CXU_ID 2 is unmapped; TCX has two contexts; a stateless extension that takes STATE_ID 0 alone. -/
theorem test_hyp_InvalidSelectionErrors :
    CustomOpForm (sel 0x20000002) (.cxReg 0 13 11 12) (some 13) ∧
    selVersion (sel 0x20000002).mcxSelector = 1 ∧ selCxe (sel 0x20000002).mcxSelector = false ∧
    cxuOf (sel 0x20000002).cfg (selCxuId (sel 0x20000002).mcxSelector) = none ∧
    cxuOf (sel 0x20020003).cfg (selCxuId (sel 0x20020003).mcxSelector) = some ExtConfig.tcx ∧
    ExtConfig.tcx.nContexts ≤ (selStateId (sel 0x20020003).mcxSelector).toNat ∧
    (let cx := { ExtConfig.tsl with statelessStates := 0 }
     cxuOf { Config.reference with cxus := [(1, cx)] } (selCxuId 0x20010001) = some cx ∧
     selStateId 0x20010001 ≠ 0 ∧ cx.statelessStates.getLsbD (selStateId 0x20010001).toNat = false) :=
  ⟨(test_custom_forms _ rfl).1, by decide +kernel⟩
/-- A context that is off and one in reset; a custom function and a custom CSR that is none of the four. -/
theorem test_hyp_InactiveContextErrors :
    (Selects off ExtConfig.tcx ∧ (off.selectedCtx ExtConfig.tcx).cs = .off ∧
      CfForm off (.cxReg 0 13 11 12) 0 (off.xr 11) (off.xr 12) (some 13)) ∧
    (Selects resetting ExtConfig.tcx ∧ (resetting.selectedCtx ExtConfig.tcx).rst = true ∧
      CsrForm resetting (.csrrw 10 0x802 11) 0x802 10 .write (resetting.xr 11) ∧ isCustomCsr 0x802 = true ∧
      csrAllowed 0x802 .write resetting.priv ∧ (0x802 : CsrAddr) ∉ [(0x8FF : CsrAddr), 0x5FF, 0x5FE, 0x5FD]) :=
  ⟨⟨test_selects_tcx _ _ _, by decide +kernel, (test_cf_forms off rfl).1⟩,
    ⟨test_selects_resetting, by decide +kernel, (test_csr_forms resetting 0x802).1, by decide +kernel,
      ⟨by decide +kernel, by decide +kernel⟩, by decide +kernel⟩⟩
theorem test_hyp_InvalidFunctionErrors :
    (Selects (sel 0x20000001) ExtConfig.tsl ∧
      CfForm (sel 0x20000001) (.cxReg 3 13 11 12) 3 ((sel 0x20000001).xr 11) ((sel 0x20000001).xr 12) (some 13) ∧
      (3 : CfId) ∉ ExtConfig.tsl.validCfs) ∧
    (SelectsActive (tcx 12 1 .dirty) ExtConfig.tcx ∧ (2 : CfId) ∉ ExtConfig.tcx.validCfs ∧
      (2 : CfId) ∉ [Config.reference.cfReadStatus, Config.reference.cfWriteStatus, Config.reference.cfReadState,
        Config.reference.cfWriteState]) ∧
    (SelectsActive (more7 0x200100FF) named ∧ isCustomCsr 0xFFE = true ∧
      csrAllowed 0xFFE .read (more7 0x200100FF).priv ∧ (0xFFE : CsrAddr) ∉ named.validCsrs ∧
      (∀ g ∈ (more7 0x200100FF).cfg.guidCsrs, g.addr ≠ 0xFFE) ∧
      (0xFFE : CsrAddr) ∉ [(0x8FF : CsrAddr), 0x5FF, 0x5FE, 0x5FD]) :=
  ⟨⟨test_selects_tsl, .reg .., by decide +kernel⟩, ⟨test_active_tcx, by decide +kernel, by decide +kernel⟩,
    ⟨test_active_named, by decide +kernel, ⟨by decide +kernel, by decide +kernel⟩, by decide +kernel,
      by decide +kernel, by decide +kernel⟩⟩
theorem test_hyp_StatefulFunctionResult : let s := tcx 12 1 .dirty
    CfForm s (.cxReg 0 13 11 12) 0 (s.xr 11) (s.xr 12) (some 13) ∧ SelectsActive s ExtConfig.tcx ∧
    (0 : CfId) ∈ ExtConfig.tcx.validCfs ∧
    (0 : CfId) ∉ [s.cfg.cfReadStatus, s.cfg.cfWriteStatus, s.cfg.cfReadState, s.cfg.cfWriteState] :=
  ⟨(test_cf_forms _ rfl).1, test_active_tcx, by decide +kernel, by decide +kernel⟩
theorem test_hyp_StatelessFunctionResult : let s := sel 0x20FF0001
    CfForm s (.cxImm 1 13 11 0x800) 1 (s.xr 11) 0xFFFFF800 (some 13) ∧ Selects s ExtConfig.tsl ∧
    ExtConfig.tsl.stateful = false ∧ (1 : CfId) ∈ ExtConfig.tsl.validCfs :=
  ⟨(test_cf_forms _ rfl).2.1, test_selects_tsl_state_255, by decide +kernel, by decide +kernel⟩
/-- A CSR of a stateful extension's own; the first and the last identity CSR, of a stateful and a stateless extension;
and the two constants of the stateless one, one of them at the address of `cxs_error`. -/
theorem test_hyp_ExtensionCsrResult :
    (let s := more7 0x20010007
     CsrForm s (.csrrw 10 0x8C0 11) 0x8C0 10 .write (s.xr 11) ∧ isCustomCsr 0x8C0 = true ∧
      csrAllowed 0x8C0 .write s.priv ∧ SelectsActive s own ∧ (0x8C0 : CsrAddr) ∈ own.validCsrs ∧
      (0x8C0 : CsrAddr) ∉ [(0x8FF : CsrAddr), 0x5FF, 0x5FE, 0x5FD] ∧
      (own.identity = true → ∀ g ∈ s.cfg.guidCsrs, g.addr ≠ 0x8C0)) ∧
    (let s := more7 0x200100FF
     CsrForm s (.csrrs 10 0xFFF 0) 0xFFF 10 .read (s.xr 0) ∧ csrAllowed 0xFFF .read s.priv ∧
      SelectsActive s named ∧ named.identity = true ∧
      ({ addr := 0xFFF, which := .cx, word := 3 } : GuidCsr) ∈ s.cfg.guidCsrs ∧
      (s.cfg.guidCsrs.map GuidCsr.addr).Nodup) ∧
    (let s := more7 0x20000008
     Selects s plain ∧ plain.stateful = false ∧ plain.identity = true ∧
      ({ addr := 0xFC1, which := .cxu, word := 1 } : GuidCsr) ∈ s.cfg.guidCsrs ∧
      ∀ a ∈ plain.validCsrs, CsrForm s (.csrrs 10 a 0) a 10 .read (s.xr 0) ∧ isCustomCsr a = true ∧
        csrAllowed a .read s.priv ∧ ∀ g ∈ s.cfg.guidCsrs, g.addr ≠ a) :=
  ⟨⟨(test_csr_forms _ 0x8C0).1, by decide +kernel, ⟨by decide +kernel, by decide +kernel⟩, test_active_own,
      by decide +kernel, by decide +kernel, by decide +kernel⟩,
    ⟨(test_csr_forms _ 0xFFF).2.2.2.2.2.2.1, ⟨by decide +kernel, by decide +kernel⟩, test_active_named,
      by decide +kernel, by decide +kernel, by decide +kernel⟩,
    ⟨test_selects_plain, by decide +kernel, by decide +kernel, by decide +kernel, fun a ha =>
      have h : ∀ a ∈ plain.validCsrs, isCustomCsr a = true ∧
          (a.extractLsb' 8 2 ≤ privCode (more7 0x20000008).priv ∧
            ¬(CsrFn.read ≠ .read ∧ a.extractLsb' 10 2 = 3#2)) ∧
          ∀ g ∈ (more7 0x20000008).cfg.guidCsrs, g.addr ≠ a := by decide +kernel
      ⟨(test_csr_forms _ a).2.2.2.2.2.2.1, (h a ha).1, (h a ha).2.1, (h a ha).2.2⟩⟩⟩
/-- R58: words 0, 1 and 3 of XLEN = 32 bits, read by `csrrs`. -/
theorem test_identity_csrs :
    (run 0xFC002573 (more7 0x200100FF)).xr 10 = 5 ∧ (run 0xFFF02573 (more7 0x200100FF)).xr 10 = 4 ∧
    (run 0xFC102573 (more7 0x20000008)).xr 10 = 8 ∧ (run 0xFC102573 (more7 0x200100FF)).xr 10 = 0 := by decide +kernel
theorem test_hyp_ReadStatusResult : let s := tcx 12 1 .dirty
    CfForm s (.cxReadStatus 10 0 0) s.cfg.cfReadStatus (s.xr 0) (s.xr 0) (some 10) ∧
    SelectsActive s ExtConfig.tcx := ⟨.readStatus .., test_active_tcx⟩
/-- Each of the four values of `cs` in the written word. -/
theorem test_hyp_WriteStatusResult : let s := tcx 12 1 .dirty
    s.cfg.standardCfsDistinct = true ∧
    CfForm s (.cxWriteStatus 0 11 0) s.cfg.cfWriteStatus (s.xr 11) (s.xr 0) (some 0) ∧
    SelectsActive s ExtConfig.tcx ∧ (statusUnpack s.cfg 0x08FFFFFF).1 = 1#2 ∧
    (statusUnpack s.cfg 0xE7FFFFFF).1 = 0#2 ∧ (statusUnpack s.cfg 0x10FF0002).1 = 2#2 ∧
    (statusUnpack s.cfg 0xFFFFFFFF).1 = 3#2 :=
  ⟨by decide +kernel, .writeStatus .., test_active_tcx, by decide +kernel⟩
/-- `x12` = 7 is at or above the size 2, `x0` = 0 below it. -/
theorem test_hyp_ReadStateResult : let s := tcx 12 1 .dirty
    s.cfg.standardCfsDistinct = true ∧
    CfForm s (.cxReadState 10 0 0) s.cfg.cfReadState (s.xr 0) (s.xr 0) (some 10) ∧
    SelectsActive s ExtConfig.tcx ∧
    (s.xr 0).toNat < (ExtConfig.tcx.size (s.selectedCtx ExtConfig.tcx).st).toNat ∧
    ¬(s.xr 12).toNat < (ExtConfig.tcx.size (s.selectedCtx ExtConfig.tcx).st).toNat :=
  ⟨by decide +kernel, .readState .., test_active_tcx, by decide +kernel⟩
theorem test_hyp_WriteStateResult : let s := tcx 12 1 .dirty
    s.cfg.standardCfsDistinct = true ∧
    CfForm s (.cxWriteState 10 0 11) s.cfg.cfWriteState (s.xr 0) (s.xr 11) (some 10) ∧
    SelectsActive s ExtConfig.tcx := ⟨by decide +kernel, .writeState .., test_active_tcx⟩

theorem test_hyp_CxsErrorAccess : let s := tcx 12 1 .dirty
    CsrForm s (.csrrci 10 0x8FF 31) 0x8FF 10 .clear 31 ∧ SelectsActive s ExtConfig.tcx :=
  ⟨(test_csr_forms _ 0x8FF).2.2.2.2.2.1, test_active_tcx⟩
/-- Written values with `rst` = 1, with `cs` = 0, and with `cs` = 1, 2 and 3. -/
theorem test_hyp_ScxsStatusAccess : let s := tcx 12 1 .dirty
    CsrForm s (.csrrw 10 0x5FF 11) 0x5FF 10 .write (s.xr 11) ∧ s.priv ≠ .user ∧ SelectsActive s ExtConfig.tcx ∧
    (0x04000000#64).getLsbD 26 = true ∧
    ((0xFBFFFFFF#64 &&& 0xE7FFFFFF).getLsbD 26 = false ∧
      (0xFBFFFFFF#64 &&& 0xE7FFFFFF).extractLsb' 27 2 = 0#2) ∧
    (0x08000000#64).extractLsb' 27 2 = CtxStatus.initial.bits ∧
    (0x10000000#64).extractLsb' 27 2 = CtxStatus.clean.bits ∧
    (0x18000000#64).extractLsb' 27 2 = CtxStatus.dirty.bits :=
  ⟨(test_csr_forms _ 0x5FF).1, by decide +kernel, test_active_tcx, by decide +kernel⟩
theorem test_hyp_ScxsIndexAccess : let s := tcx 12 1 .dirty
    CsrForm s (.csrrs 10 0x5FE 11) 0x5FE 10 .set (s.xr 11) ∧ s.priv ≠ .user ∧ SelectsActive s ExtConfig.tcx :=
  ⟨(test_csr_forms _ 0x5FE).2.1, by decide +kernel, test_active_tcx⟩
theorem test_hyp_ScxsDataAccess : let s := tcx 12 1 .dirty
    CsrForm s (.csrrs 10 0x5FD 0) 0x5FD 10 .read (s.xr 0) ∧ s.priv ≠ .user ∧ SelectsActive s ExtConfig.tcx ∧
    (s.selectedCtx ExtConfig.tcx).index.toNat < (ExtConfig.tcx.size (s.selectedCtx ExtConfig.tcx).st).toNat :=
  ⟨(test_csr_forms _ 0x5FD).2.2.2.2.2.2.1, by decide +kernel, test_active_tcx, by decide +kernel⟩
theorem test_hyp_ResettingContextAccess : Selects resetting ExtConfig.tcx ∧ ExtConfig.tcx.stateful = true ∧
    (resetting.selectedCtx ExtConfig.tcx).rst = true ∧
    ∀ a ∈ [(0x8FF : CsrAddr), 0x5FF, 0x5FE, 0x5FD],
      CsrForm resetting (.csrrw 10 a 11) a 10 .write (resetting.xr 11) ∧ csrAllowed a .write resetting.priv :=
  ⟨test_selects_resetting, by decide +kernel, by decide +kernel, fun a ha =>
    ⟨(test_csr_forms resetting a).1,
      (show ∀ a ∈ [(0x8FF : CsrAddr), 0x5FF, 0x5FE, 0x5FD], a.extractLsb' 8 2 ≤ privCode resetting.priv ∧
        ¬(CsrFn.write ≠ .read ∧ a.extractLsb' 10 2 = 3#2) by decide +kernel) a ha⟩⟩
/-- The four CSRs of a context that is off; written values with `rst` = 1 and with each `cs`. -/
theorem test_hyp_OffContextAccess : Selects off ExtConfig.tcx ∧ ExtConfig.tcx.stateful = true ∧
    (off.selectedCtx ExtConfig.tcx).rst = false ∧ (off.selectedCtx ExtConfig.tcx).cs = .off ∧
    (∀ a ∈ [(0x8FF : CsrAddr), 0x5FF, 0x5FE, 0x5FD],
      CsrForm off (.csrrw 10 a 11) a 10 .write (off.xr 11) ∧ csrAllowed a .write off.priv) ∧
    (0x04000000#64).getLsbD 26 = true ∧
    (∀ cs ∈ [CtxStatus.off, .initial, .clean, .dirty],
      (0#35 ++ cs.bits ++ 0#27 : Word).getLsbD 26 = false ∧ (0#35 ++ cs.bits ++ 0#27 : Word).extractLsb' 27 2 = cs.bits) :=
  ⟨test_selects_tcx _ _ _, by decide +kernel, by decide +kernel, by decide +kernel, fun a ha =>
    ⟨(test_csr_forms off a).1,
      (show ∀ a ∈ [(0x8FF : CsrAddr), 0x5FF, 0x5FE, 0x5FD], a.extractLsb' 8 2 ≤ privCode off.priv ∧
        ¬(CsrFn.write ≠ .read ∧ a.extractLsb' 10 2 = 3#2) by decide +kernel) a ha⟩, by decide +kernel⟩
theorem test_hyp_ResetsComplete :
    cxuOf resetting.cfg 3 = some ExtConfig.tcx ∧ (resetting.ctx ExtConfig.tcx 3 0).rst = true ∧
    (resetting.ctx ExtConfig.tcx 3 1).rst = false := by decide +kernel
/-- A full save record, and a context that holds another state. -/
theorem test_hyp_SaveThenRestore : ExtConfig.WF (tcx 12 1 .dirty).cfg ExtConfig.tcx ∧ ExtConfig.tcx.stateful = true ∧
    ExtConfig.tcx.holds (tcxState 0xFFFFFFFF 0x80000000) = tcxState 0xFFFFFFFF 0x80000000 ∧
    (ctx0 (tcx 12 1 .dirty)).st = tcxState 12 1 ∧ ExtConfig.tcx.holds (tcxState 12 1) = tcxState 12 1 ∧
    ExtConfig.tcx.size (tcxState 12 1) = ExtConfig.tcx.size (tcxState 0xFFFFFFFF 0x80000000) :=
  ⟨test_tcx_wf, by decide +kernel⟩

/-- The next state of an instruction. -/
def after (i : Instr) (s : State) : State :=
  match exec i s with
  | .next t => t
  | _ => s

theorem test_hyp_OtherContextsUntouched : let s := tcx 12 1 .dirty
    exec (.cxReg 0 13 11 12) s = .next (after (.cxReg 0 13 11 12) s) ∧ (3#8, 1#8) ≠ s.selected :=
  ⟨rfl, by decide +kernel⟩
theorem test_hyp_CustomOperationFrame : let s := tcx 12 1 .dirty
    CustomOpForm s (.cxReg 0 13 11 12) (some 13) ∧ s.cfg.builtin = none ∧
    exec (.cxReg 0 13 11 12) s = .next (after (.cxReg 0 13 11 12) s) :=
  ⟨(test_custom_forms _ rfl).1, by decide +kernel, rfl⟩
theorem test_hyp_FlagsAreSticky : let s := { sel 0x20020003 with cxStatus := 0x11 }
    s.cfg.builtin = none ∧ exec (.cxReg 0 13 11 12) s = .next (after (.cxReg 0 13 11 12) s) ∧
    ∀ rd fn src, ¬CsrForm s (.cxReg 0 13 11 12) 0x801 rd fn src :=
  ⟨by decide +kernel, rfl, fun _ _ _ h => nomatch h⟩
theorem test_hyp_UserSelectsThroughTheTable :
    user.priv = .user ∧ user.cfg.builtin = none ∧
    exec (.csrrwi 0 0x800 1) user = .next (after (.csrrwi 0 0x800 1) user) ∧
    (after (.csrrwi 0 0x800 1) user).mcxSelector ≠ user.mcxSelector :=
  ⟨by decide +kernel, by decide +kernel, rfl, by decide +kernel⟩
theorem test_hyp_LevelChanges :
    user.cfg.builtin = none ∧ exec .ecall user = .next (after .ecall user) ∧
    (after .ecall user).priv ≠ user.priv := ⟨by decide +kernel, rfl, by decide +kernel⟩

end Sys2Proof.Tests.Slice0
end

/-! ### Reset: the invariant, and the reference configuration (R8, R64, R302, R380) -/

section
namespace Sys2Proof.Machine

/-- Every context after reset belongs to a configured extension and fits its bits (R47, R64). -/
theorem powerUpCtxs_ok {cfg : Config} (wf : cfg.WF) : ∀ e ∈ powerUpCtxs cfg, CtxEntryOk cfg e := by
  intro e he
  obtain ⟨⟨c, cx⟩, hmem, i, hi, rfl⟩ := mem_powerUpCtxs he
  have few : cx.nContexts ≤ 256 := (wf.extensions _ hmem).contexts
  have number : (BitVec.ofNat 8 i).toNat = i := by
    rw [BitVec.toNat_ofNat, Nat.mod_eq_of_lt (hi.trans_le few)]
  obtain ⟨hdiv, hmod⟩ := ctxKey_div c (BitVec.ofNat 8 i)
  refine ⟨?_, cx, ?_, ?_, errBits_zero cx _, keepLow16_zero _⟩
  · have := c.isLt
    dsimp only
    omega
  · dsimp only
    rw [hdiv, BitVec.ofNat_toNat, BitVec.setWidth_eq]
    exact cxuOf_of_mem wf.cxuIds hmem
  · dsimp only
    rw [hmod, number]
    exact hi

/-- The registers after reset are XLEN-bit values, and `x[0]` is 0 (R22, R63). -/
theorem resetOf_x (p : ResetParams) (i : Fin 32) :
    norm p.cfg.xlen (State.resetOf p).x[i] = (State.resetOf p).x[i] := by
  by_cases h : i = 0
  · simp [State.resetOf, h]
  · have other : 0 ≠ i.val := fun e => h (Fin.ext e.symm)
    simp [State.resetOf, other]

/-- The state after reset meets the invariant, for every allowed configuration and whatever the spec leaves open. -/
theorem resetOf_inv (p : ResetParams) (wf : p.cfg.WF) : (State.resetOf p).Inv where
  xZero := by simp [State.resetOf]
  xWidth := resetOf_x p
  pcWidth := by simp [State.resetOf]
  pcAligned := clear2_clear2 _
  level := implemented_machine _
  selector := BitVec.zero_and
  status := BitVec.zero_and
  table := by simp [State.resetOf, tableBits]
  index := BitVec.zero_and
  mstatus := by
    refine ⟨false, false, if implemented p.cfg.modes p.mpp then p.mpp else .machine, ?_, rfl⟩
    split
    · assumption
    · exact implemented_machine _
  mtvec := by simp [State.resetOf]
  mscratch := norm_norm _ _
  mepc := by simp [State.resetOf]
  mcause := keepLow_zero _
  mtval := norm_norm _ _
  mem := (Memory.wf_ofCells _ p.mem).1
  memBound := (Memory.wf_ofCells _ p.mem).2
  text := (Memory.wf_ofCells _ p.mem).1
  textBound := (Memory.wf_ofCells _ p.mem).2
  ctxOrder := sorted_powerUpCtxs p.cfg
  ctxOk := powerUpCtxs_ok wf

/-- TSL meets the laws under every configuration: it has no CX CSR and, being stateless, no states to keep (R8). -/
theorem tsl_meetsLaws (cfg : Config) : ExtConfig.WF cfg ExtConfig.tsl where
  contexts := by decide
  errorW := Nat.zero_le _
  indexW := Nat.zero_le _
  cfs := nofun
  csrs := nofun
  states := nofun
  reload := nofun

/-- TCX meets the laws under every configuration whose standard CF_IDs are none of its own (R8, R255, R281). -/
theorem tcx_meetsLaws {cfg : Config} (hcfs : ∀ f ∈ ExtConfig.tcx.validCfs, stdFn? cfg f = none) :
    ExtConfig.WF cfg ExtConfig.tcx where
  contexts := by decide
  errorW := by cases h : cfg.xlen <;> decide
  indexW := by decide
  cfs := fun _ => hcfs
  csrs := nofun
  states := fun _ => ExtConfig.stateLaws_of_tcx rfl
  reload := fun _ st st' held _ _ => ExtConfig.reload_of_tcx rfl cfg.xlen st st' held

theorem mem_reference_cxus {e : BitVec 8 × ExtConfig} (he : e ∈ Config.reference.cxus) :
    e.2 = ExtConfig.tsl ∨ e.2 = ExtConfig.tcx := by
  simp only [Config.reference, List.mem_cons, List.not_mem_nil, or_false] at he
  rcases he with rfl | rfl
  · exact .inl rfl
  · exact .inr rfl

/-- The reference configuration is one the spec allows (R8, R9 (d), R281, R282, R363). -/
theorem reference_meetsLaws : Config.reference.WF where
  standardCfs := by decide
  accessControl := fun _ =>
    ⟨by decide, 0x2000, Config.protectsTable_reference rfl (by decide) (by decide)⟩
  cxuIds := by decide
  extensions := by
    intro e he
    rcases mem_reference_cxus he with h | h <;> rw [h]
    · exact tsl_meetsLaws _
    · exact tcx_meetsLaws (by decide)
  identity := by
    intro e he e' he' same
    have equal : e.2 = e'.2 := by
      rcases mem_reference_cxus he with h | h <;> rcases mem_reference_cxus he' with h' | h' <;> rw [h, h'] at same ⊢
      · exact absurd same (by decide)
      · exact absurd same (by decide)
    exact equal ▸ .refl _ _
  statusWord := by
    intro e he _
    have room : e.2.errorW ≤ 8 := by
      rcases mem_reference_cxus he with h | h <;> rw [h] <;> decide
    exact statusUnpack_pack_test rfl room
  guids := nofun
  guidAddrs := List.nodup_nil

/-- Settles O8: the reference reset is one of the resets of an allowed configuration. -/
theorem resetMeetsInvariant : Obligations.ResetMeetsInvariant :=
  ⟨resetOf_inv ResetParams.reference reference_meetsLaws, reference_meetsLaws⟩

end Sys2Proof.Machine
end

/-! ### What an operation does to the state contexts, and what no instruction touches (R9, R15, R48, R98) -/

section
namespace Sys2Proof.Machine

/-- What an operation on the context `(c, i)` may make of the whole state: nothing, a free value drawn, that one context
replaced, or both (R9, R48). -/
inductive CtxUpdate (s : State) (c i : BitVec 8) : State → Prop where
  | none : CtxUpdate s c i s
  | drawn : CtxUpdate s c i s.drawn
  | set (k : Ctx) : CtxUpdate s c i (s.setCtx c i k)
  | setDrawn (k : Ctx) : CtxUpdate s c i (s.setCtxDrawn c i k)

/-- Configuration and program text are kept, and so is every context but `p` (R15, R48, R98). -/
structure KeepsOthers (p : BitVec 8 × BitVec 8) (s t : State) : Prop where
  cfg : t.cfg = s.cfg
  text : t.text = s.text
  ctx : ∀ cx c k, (c, k) ≠ p → t.ctx cx c k = s.ctx cx c k

section Updates

variable (s : State) (cx : ExtConfig) (c i : BitVec 8)

theorem statusWrite_update (v : Word) : CtxUpdate s c i (s.statusWrite cx c i v) := by
  unfold State.statusWrite
  dsimp only
  split
  · exact .setDrawn _
  · split
    · exact .setDrawn _
    · exact .set _

theorem dataAccess_update (fn : CsrFn) (d0 : Word) : CtxUpdate s c i (s.dataAccess cx c i fn d0).2 := by
  unfold State.dataAccess
  dsimp only
  split
  · exact .set _
  · exact .setDrawn _

theorem stdCsrResetting_update (r : StdCsr) : CtxUpdate s c i (s.stdCsrResetting r).2 := by
  cases r <;> exact .drawn

theorem stdCsrOff_update (r : StdCsr) (fn : CsrFn) (d0 : Word) :
    CtxUpdate s c i (s.stdCsrOff cx c i r fn d0).2 := by
  unfold State.stdCsrOff
  cases r with
  | error =>
    dsimp only
    split
    · exact .none
    · exact .set _
  | status =>
    dsimp only
    split_ifs
    · exact .drawn
    · exact .setDrawn _
    · exact .drawn
    · exact .setDrawn _
  | index =>
    dsimp only
    split
    · exact .none
    · exact .setDrawn _
  | data => exact .drawn

theorem stdCsrActive_update (r : StdCsr) (fn : CsrFn) (d0 : Word) :
    CtxUpdate s c i (s.stdCsrActive cx c i r fn d0).2 := by
  unfold State.stdCsrActive
  cases r with
  | error =>
    dsimp only
    split
    · exact .none
    · exact .set _
  | status =>
    dsimp only
    split
    · exact .none
    · exact statusWrite_update s cx c i _
  | index =>
    dsimp only
    split
    · exact .none
    · exact .set _
  | data => exact dataAccess_update s cx c i fn d0

/-- An access of a mandatory CX CSR works on its one context (R240, R248). -/
theorem stdCsr_update (r : StdCsr) (fn : CsrFn) (d0 : Word) : CtxUpdate s c i (s.stdCsr cx c i r fn d0).2 := by
  unfold State.stdCsr
  split
  · exact stdCsrResetting_update s c i r
  · split
    · exact stdCsrOff_update s cx c i r fn d0
    · exact stdCsrActive_update s cx c i r fn d0

theorem writeStatus_update (d0 : Word) : CtxUpdate s c i (s.writeStatus cx c i d0) := by
  unfold State.writeStatus
  dsimp only
  split
  · exact .setDrawn _
  · exact .setDrawn _
  · exact .set _
  · exact .set _

theorem readState_update (d0 : Word) : CtxUpdate s c i (s.readState cx c i d0).2 := by
  unfold State.readState
  dsimp only
  split
  · exact .none
  · exact .drawn

theorem writeState_update (d0 d1 : Word) : CtxUpdate s c i (s.writeState cx c i d0 d1) := by
  unfold State.writeState
  dsimp only
  split
  · exact .set _
  · exact .none

/-- A standard custom function works on its one context (R287). -/
theorem stdCf_update (f : StdFn) (d0 d1 : Word) : CtxUpdate s c i (s.stdCf cx c i f d0 d1).2 := by
  cases f with
  | readStatus => exact .none
  | writeStatus => exact writeStatus_update s cx c i d0
  | readState => exact readState_update s cx c i d0
  | writeState => exact writeState_update s cx c i d0 d1

variable (r : CxuRequest)

theorem performCf_update (f : CfId) : CtxUpdate s r.cxu r.state (s.performCf cx r f).2.2 := by
  unfold State.performCf
  split
  · split
    · exact stdCf_update s cx r.cxu r.state _ r.data0 r.data1
    · exact .set _
  · exact .none

theorem performExtCsr_update (fn : CsrFn) (a : CsrAddr) :
    CtxUpdate s r.cxu r.state (s.performExtCsr cx r fn a).2.2 := by
  unfold State.performExtCsr
  split
  · exact .set _
  · exact .none

theorem performOtherCsr_update (fn : CsrFn) (a : CsrAddr) :
    CtxUpdate s r.cxu r.state (s.performOtherCsr cx r fn a).2.2 := by
  unfold State.performOtherCsr
  split
  · exact .none
  · exact performExtCsr_update s cx r fn a

theorem performCsr_update (fn : CsrFn) (a : CsrAddr) : CtxUpdate s r.cxu r.state (s.performCsr cx r fn a).2.2 := by
  unfold State.performCsr
  split
  · split
    · exact stdCsr_update s cx r.cxu r.state _ fn r.data0
    · exact performOtherCsr_update s cx r fn a
  · exact performOtherCsr_update s cx r fn a

/-- What the CXU performs works on the one context the request names (R9, R211). -/
theorem perform_update : CtxUpdate s r.cxu r.state (s.perform cx r).2.2 := by
  unfold State.perform
  split
  · exact performCf_update s cx r _
  · exact performCsr_update s cx r _ _

/-- The decision of a request, errors and all, works on the one context the request names (R203). -/
theorem decideOp_update : CtxUpdate s r.cxu r.state (s.decideOp r).2.2 := by
  rcases decideOp_cases s r with ⟨_, e⟩ | ⟨cx, _, ⟨_, e⟩ | ⟨_, _, _, _, e⟩ | ⟨_, _, e⟩ | ⟨_, _, e⟩⟩ <;> rw [e]
  · exact .none
  · exact .none
  · exact .drawn
  · exact .drawn
  · exact perform_update s cx r

end Updates

namespace KeepsOthers

variable {p : BitVec 8 × BitVec 8} {s t u : State}

/-- An update that touches no context keeps them all. -/
theorem of_ctxs_eq (h : t.cfg = s.cfg ∧ t.text = s.text ∧ t.ctxs = s.ctxs) : KeepsOthers p s t := by
  obtain ⟨hcfg, htext, hctxs⟩ := h
  refine ⟨hcfg, htext, fun cx c k _ => ?_⟩
  unfold State.ctx
  rw [hctxs]

theorem trans (hst : KeepsOthers p s t) (htu : KeepsOthers p t u) : KeepsOthers p s u where
  cfg := htu.cfg.trans hst.cfg
  text := htu.text.trans hst.text
  ctx := fun cx c k h => (htu.ctx cx c k h).trans (hst.ctx cx c k h)

/-- Replacing one context keeps the others. -/
theorem setCtx (s : State) (c i : BitVec 8) (k : Ctx) : KeepsOthers (c, i) s (s.setCtx c i k) where
  cfg := rfl
  text := rfl
  ctx := fun cx _ _ h => ctx_setCtx_other s cx (fun e => h (Prod.ext e.1 e.2)) k

theorem of_update {c i : BitVec 8} (h : CtxUpdate s c i t) : KeepsOthers (c, i) s t := by
  cases h with
  | none => exact of_ctxs_eq ⟨rfl, rfl, rfl⟩
  | drawn => exact of_ctxs_eq ⟨rfl, rfl, rfl⟩
  | set k => exact setCtx s c i k
  | setDrawn k => exact (setCtx s c i k).trans (of_ctxs_eq ⟨rfl, rfl, rfl⟩)

end KeepsOthers

section Instructions

variable (p : BitVec 8 × BitVec 8) (s : State)

/-- A register written and `pc` moved on: no context is touched. -/
theorem setX_advance_keepsOthers (rd : Reg) (v : Word) : KeepsOthers p s (s.setX rd v).advance :=
  .of_ctxs_eq (by simp)

theorem takeTrap_keepsOthers (cause : TrapCause) (tval : Word) : KeepsOthers p s (s.takeTrap cause tval) :=
  .of_ctxs_eq ⟨rfl, rfl, rfl⟩

theorem illegal_keepsOthers (insn : Insn) : KeepsOthers p s (s.illegal insn) := .of_ctxs_eq ⟨rfl, rfl, rfl⟩

/-- A built-in instruction works on the hart alone (R210). -/
theorem builtin_keepsOthers (insn : Insn) : KeepsOthers p s (s.builtin insn) := by
  unfold State.builtin
  split
  · exact illegal_keepsOthers p s insn
  · split
    · exact illegal_keepsOthers p s insn
    · exact .of_ctxs_eq ⟨rfl, rfl, rfl⟩

/-- A request changes no context but the one it names (R202). -/
theorem multiplex_keepsOthers (r : CxuRequest) (dest : Option Reg) :
    KeepsOthers (r.cxu, r.state) s (s.multiplex r dest) := by
  unfold State.multiplex
  exact (KeepsOthers.of_update (decideOp_update s r)).trans (.of_ctxs_eq (by simp))

/-- A custom operation changes no context but the selected one (R9, R201, R202). -/
theorem customOp_keepsOthers (kind : OpKind) (insn : Insn) (func : FuncId) (d0 d1 : Word) (dest : Option Reg) :
    KeepsOthers s.selected s (s.customOp kind insn func d0 d1 dest) := by
  rcases customOp_cases s kind insn func d0 d1 dest with
    ⟨_, e⟩ | ⟨_, _, e⟩ | ⟨_, _, _, e⟩ | ⟨_, _, _, _, e⟩ <;> rw [e]
  · exact .of_ctxs_eq (by simp)
  · exact illegal_keepsOthers _ s insn
  · exact builtin_keepsOthers _ s insn
  · exact multiplex_keepsOthers s { cxu := selCxuId s.mcxSelector, state := selStateId s.mcxSelector, .. } dest

/-- A CX-ISA CSR belongs to the hart; a write of `cx_index` selects a context and changes none (R176). -/
theorem cxIsaAccess_keepsOthers (insn : Insn) (r : CxIsaCsr) (fn : CsrFn) (src : Word) (rd : Reg) :
    KeepsOthers p s (s.cxIsaAccess insn r fn src rd) := by
  unfold State.cxIsaAccess
  dsimp only
  split
  · exact illegal_keepsOthers p s insn
  split
  · exact setX_advance_keepsOthers p s rd _
  cases r with
  | cxIndex =>
    dsimp only
    rcases writeIndex_cases s (csrNew fn (s.readCxIsa .cxIndex) src) with ⟨e, _⟩ | ⟨cause, e, _⟩ <;> rw [e]
    · exact .of_ctxs_eq (by simp)
    · exact takeTrap_keepsOthers p s _ _
  | cxStatus => exact .of_ctxs_eq (by simp)
  | mcxSelector => exact .of_ctxs_eq (by simp)
  | mcxTable => exact .of_ctxs_eq (by simp)

theorem writeBase_keepsOthers (r : BaseCsr) (v : Word) : KeepsOthers p s (s.writeBase r v) := by
  cases r <;> exact .of_ctxs_eq ⟨rfl, rfl, rfl⟩

theorem baseAccess_keepsOthers (r : BaseCsr) (fn : CsrFn) (src : Word) (rd : Reg) :
    KeepsOthers p s (s.baseAccess r fn src rd) := by
  unfold State.baseAccess
  dsimp only
  split
  · exact setX_advance_keepsOthers p s rd _
  · exact (writeBase_keepsOthers p s r _).trans (setX_advance_keepsOthers p _ rd _)

theorem csrCommon_keepsOthers (insn : Insn) (a : CsrAddr) (fn : CsrFn) (src : Word) (rd : Reg) :
    KeepsOthers s.selected s (s.csrCommon insn a fn src rd) := by
  rcases csrCommon_cases s insn a fn src rd with
    ⟨_, e⟩ | ⟨_, ⟨r, _, e⟩ | ⟨_, e⟩ | ⟨r, _, e⟩ | ⟨_, e⟩⟩ <;> rw [e]
  · exact illegal_keepsOthers _ s insn
  · exact cxIsaAccess_keepsOthers _ s insn r fn src rd
  · exact customOp_keepsOthers s _ insn _ src _ _
  · exact baseAccess_keepsOthers _ s r fn src rd
  · exact illegal_keepsOthers _ s insn

theorem jump_keepsOthers (target : Word) {link : State → State} (hlink : KeepsOthers p s (link s)) :
    KeepsOthers p s (s.jump target link) := by
  unfold State.jump
  split
  · exact hlink.trans (.of_ctxs_eq ⟨rfl, rfl, rfl⟩)
  · exact .of_ctxs_eq ⟨rfl, rfl, rfl⟩

theorem branch_keepsOthers (taken : Bool) (off : BitVec 12) : KeepsOthers p s (s.branch taken off) := by
  unfold State.branch
  split
  · exact jump_keepsOthers p s _ (.of_ctxs_eq ⟨rfl, rfl, rfl⟩)
  · exact .of_ctxs_eq ⟨rfl, rfl, rfl⟩

theorem loadTo_keepsOthers (rd : Reg) (a : Word) (n : Nat) (v : Word) : KeepsOthers p s (s.loadTo rd a n v) := by
  unfold State.loadTo
  split
  · exact takeTrap_keepsOthers p s _ _
  · split
    · exact setX_advance_keepsOthers p s rd v
    · exact takeTrap_keepsOthers p s _ _
    · exact takeTrap_keepsOthers p s _ _

theorem storeTo_keepsOthers (a : Word) (n : Nat) {stored : State} (h : KeepsOthers p s stored) :
    KeepsOthers p s (s.storeTo a n stored) := by
  unfold State.storeTo
  split
  · exact takeTrap_keepsOthers p s _ _
  · split
    · exact h.trans (.of_ctxs_eq ⟨rfl, rfl, rfl⟩)
    · exact takeTrap_keepsOthers p s _ _
    · exact takeTrap_keepsOthers p s _ _

variable {s} {t : State} {i : Instr}

theorem customOpForm_keepsOthers {dest : Option Reg} (hi : CustomOpForm s i dest) (h : exec i s = .next t) :
    KeepsOthers s.selected s t := by
  obtain ⟨k, f, d0, d1, e, _⟩ := exec_customOpForm hi
  cases e.symm.trans h
  exact customOp_keepsOthers s k _ f d0 d1 dest

theorem csrForm_keepsOthers {a : CsrAddr} {rd : Reg} {fn : CsrFn} {src : Word} (hi : CsrForm s i a rd fn src)
    (h : exec i s = .next t) : KeepsOthers s.selected s t := by
  cases (exec_csrForm hi).symm.trans h
  exact csrCommon_keepsOthers s _ a fn src rd

/-- No instruction changes the configuration, the program text, or a context other than the one selected when it starts
(R9, R48, R98). -/
theorem exec_keepsOthers (h : exec i s = .next t) : KeepsOthers s.selected s t := by
  cases i with
  | cxReg => exact customOpForm_keepsOthers (.cf (.reg ..)) h
  | cxImm => exact customOpForm_keepsOthers (.cf (.imm ..)) h
  | cxFlex => exact customOpForm_keepsOthers (.cf (.flex ..)) h
  | cxFlex25 => exact customOpForm_keepsOthers (.cf (.flex25 ..)) h
  | custom3 => exact customOpForm_keepsOthers (.custom3 _) h
  | cxReadStatus => exact customOpForm_keepsOthers (.cf (.readStatus ..)) h
  | cxWriteStatus => exact customOpForm_keepsOthers (.cf (.writeStatus ..)) h
  | cxReadState => exact customOpForm_keepsOthers (.cf (.readState ..)) h
  | cxWriteState => exact customOpForm_keepsOthers (.cf (.writeState ..)) h
  | csrrw => exact csrForm_keepsOthers (.w ..) h
  | csrrs => exact csrForm_keepsOthers (.s ..) h
  | csrrc => exact csrForm_keepsOthers (.c ..) h
  | csrrwi => exact csrForm_keepsOthers (.wi ..) h
  | csrrsi => exact csrForm_keepsOthers (.si ..) h
  | csrrci => exact csrForm_keepsOthers (.ci ..) h
  | lui => cases h; exact setX_advance_keepsOthers _ s _ _
  | addi => cases h; exact setX_advance_keepsOthers _ s _ _
  | add => cases h; exact setX_advance_keepsOthers _ s _ _
  | andi => cases h; exact setX_advance_keepsOthers _ s _ _
  | slli rd rs1 shamt =>
    cases h
    split
    · exact illegal_keepsOthers _ s _
    · exact setX_advance_keepsOthers _ s _ _
  | srli rd rs1 shamt =>
    cases h
    split
    · exact illegal_keepsOthers _ s _
    · exact setX_advance_keepsOthers _ s _ _
  | lw => cases h; exact loadTo_keepsOthers _ s _ _ _ _
  | ld =>
    cases h
    split
    · exact illegal_keepsOthers _ s _
    · exact loadTo_keepsOthers _ s _ _ _ _
  | sw => cases h; exact storeTo_keepsOthers _ s _ _ (.of_ctxs_eq (by simp))
  | sd =>
    cases h
    split
    · exact illegal_keepsOthers _ s _
    · exact storeTo_keepsOthers _ s _ _ (.of_ctxs_eq (by simp))
  | beq => cases h; exact branch_keepsOthers _ s _ _
  | bne => cases h; exact branch_keepsOthers _ s _ _
  | jal => cases h; exact jump_keepsOthers _ s _ (.of_ctxs_eq (by simp))
  | ecall => cases h; exact takeTrap_keepsOthers _ s _ _
  | mret =>
    cases h
    split
    · exact .of_ctxs_eq ⟨rfl, rfl, rfl⟩
    · exact illegal_keepsOthers _ s _

end Instructions

/-- Settles O56, from what every instruction keeps. -/
theorem otherContextsUntouched : Obligations.OtherContextsUntouched := by
  intro s t i h
  exact (exec_keepsOthers h).ctx

/-- The hart's part of a step is an instruction or an exception. -/
theorem hartStep_keepsOthers {s t : State} (h : s.hartStep = .next t) : KeepsOthers s.selected s t := by
  unfold State.hartStep at h
  split at h
  · split at h
    · exact exec_keepsOthers h
    · cases h
      exact illegal_keepsOthers _ s _
  · cases h
    exact .of_ctxs_eq ⟨rfl, rfl, rfl⟩

/-- Settles O10: the resets in progress change contexts alone, and the hart's part keeps both. -/
theorem stepKeepsConfiguration : Obligations.StepKeepsConfiguration := by
  intro s t h
  have kept : KeepsOthers s.tick.selected s.tick t := hartStep_keepsOthers h
  exact ⟨kept.cfg, kept.text⟩

end Sys2Proof.Machine
end

/-! ### Saved contexts: the words of the save data written back (R254, R255, R286) -/

section
namespace Sys2Proof.Machine

section Restore

/-- The words of a list written one after another, from word `n` on, with the effect of `cx_write_state`. -/
def State.writeWords (s : State) (cx : ExtConfig) (c i : BitVec 8) (ws : List Word) (n : Nat) : State :=
  (ws.zipIdx n).foldl (fun t w => t.writeState cx c i (BitVec.ofNat 64 w.2) w.1) s

variable (s : State) {cx : ExtConfig} {c i : BitVec 8}

theorem writeWords_cons (w : Word) (ws : List Word) (n : Nat) :
    s.writeWords cx c i (w :: ws) n = (s.writeState cx c i (BitVec.ofNat 64 n) w).writeWords cx c i ws (n + 1) := rfl

/-- `WriteState` below the size stores the word and makes the context dirty (R286). -/
theorem ctx_writeState_below {n : Nat} (hn : n < 2 ^ 64) (h : n < (cx.size (s.ctx cx c i).st).toNat) (w : Word) :
    (s.writeState cx c i (BitVec.ofNat 64 n) w).ctx cx c i =
      { s.ctx cx c i with st := cx.loadWord (s.ctx cx c i).st n w, cs := .dirty } := by
  have index : n % 2 ^ 64 = n := Nat.mod_eq_of_lt hn
  simp only [State.writeState, Ctx.size, BitVec.toNat_ofNat, index, if_pos h, ctx_setCtx_same]

/-- `WriteState` at or above the size is ignored (R286). -/
theorem writeState_above {n : Nat} (hn : n < 2 ^ 64) (h : ¬n < (cx.size (s.ctx cx c i).st).toNat) (w : Word) :
    s.writeState cx c i (BitVec.ofNat 64 n) w = s := by
  have index : n % 2 ^ 64 = n := Nat.mod_eq_of_lt hn
  simp only [State.writeState, Ctx.size, BitVec.toNat_ofNat, index, if_neg h]

/-- Words written into a dirty context load its state and change nothing else of it. -/
theorem ctx_writeWords_of_dirty (ws : List Word) (n : Nat) (hn : n + ws.length ≤ 2 ^ 64)
    (hd : (s.ctx cx c i).cs = .dirty) :
    (s.writeWords cx c i ws n).ctx cx c i =
      { s.ctx cx c i with st := cx.loadWords (s.ctx cx c i).st n ws } := by
  induction ws generalizing s n with
  | nil => rfl
  | cons w ws ih =>
    rw [List.length_cons] at hn
    rw [writeWords_cons, ExtConfig.loadWords]
    have small : n < 2 ^ 64 := by omega
    by_cases below : n < (cx.size (s.ctx cx c i).st).toNat
    · have written := ctx_writeState_below s small below w
      rw [ih _ (n + 1) (by omega) (by rw [written]), written, if_pos below]
      simp [hd]
    · rw [writeState_above s small below, if_neg below]
      exact ih s (n + 1) (by omega) hd

/-- Words written into a context from word 0 on load its state; the first of them, if the size has room for it, makes it
dirty. -/
theorem ctx_writeWords_zero {w : Word} {ws : List Word} (hlen : ws.length < 2 ^ 64)
    (h : 0 < (cx.size (s.ctx cx c i).st).toNat) :
    (s.writeWords cx c i (w :: ws) 0).ctx cx c i =
      { s.ctx cx c i with st := cx.loadWords (s.ctx cx c i).st 0 (w :: ws), cs := .dirty } := by
  have written := ctx_writeState_below s (by decide) h w
  rw [writeWords_cons, ctx_writeWords_of_dirty _ ws 1 (by omega) (by rw [written]), written, ExtConfig.loadWords, if_pos h]

theorem blob_length (x : Xlen) (cx : ExtConfig) (st : CxState) : (cx.blob x st).length = (cx.size st).toNat := by
  simp [ExtConfig.blob]

/-- Settles O55: the words are loaded in order, and loading the save data of a state gives that state (R255). -/
theorem saveThenRestore : Obligations.SaveThenRestore := by
  intro s cx c i st wf hs held held' hsize
  have reloaded : cx.loadWords (s.ctx cx c i).st 0 (cx.blob s.cfg.xlen st) = st :=
    wf.reload hs st (s.ctx cx c i).st held held' hsize
  have hlen := blob_length s.cfg.xlen cx st
  change (s.writeWords cx c i (cx.blob s.cfg.xlen st) 0).ctx cx c i = _
  cases hb : cx.blob s.cfg.xlen st with
  | nil =>
    rw [hb] at reloaded hlen
    have empty : cx.size st = 0 := BitVec.eq_of_toNat_eq hlen.symm
    have same : (s.ctx cx c i).st = st := reloaded
    rw [if_pos empty, ← same]
    rfl
  | cons w ws =>
    rw [hb] at reloaded hlen
    rw [List.length_cons] at hlen
    have bound := (cx.size st).isLt
    have room : 0 < (cx.size st).toNat := by omega
    have filled : cx.size st ≠ 0 := fun e => by simp [e] at room
    rw [if_neg filled, ctx_writeWords_zero s (by omega) (hsize ▸ room), reloaded]

end Restore

end Sys2Proof.Machine
end

/-! ### The answer of an operation: flag, destination, `pc` (R202, R205), and what a stateless extension answers (R212) -/

section
namespace Sys2Proof.Machine

section Answer

variable (s : State)

/-- The flag, the destination and `pc` are all that the answer of a custom operation changes in the hart (R202, R205). -/
theorem advanced_answer (f : Option CxFlag) (dest : Option Reg) (v : Word) :
    Advanced s ((s.setFlag f).setDest dest v).advance (destRegs dest) [.cxStatus] [] [] where
  regs := by
    intro j hj
    rw [xr_advance]
    cases dest with
    | none => exact xr_setFlag s f j
    | some rd =>
      have other : j ≠ rd := fun e => hj (by simp [destRegs, e])
      exact (xr_setX_other _ other v).trans (xr_setFlag s f j)
  csrs := by
    intro r hr
    cases r with
    | cxStatus => simp at hr
    | _ => simp [State.csr]
  ctxs := by
    intro cx c i _
    simp [State.ctx]
  bytes := by
    intro a _
    simp
  text := by simp
  cfg := by simp
  level := by simp
  pc := by simp

/-- The destination holds the data it is given (R205). -/
theorem destHolds_answer (f : Option CxFlag) (dest : Option Reg) (v : Word) :
    ((s.setFlag f).setDest dest v).advance.destHolds dest v := by
  rintro rd rfl
  unfold State.holds
  rw [xr_advance, State.setDest, xr_setX]
  by_cases h : rd = 0#5
  · simp [h]
  · simp [h]

end Answer

section Stateless

variable {s : State} {cx : ExtConfig}

/-- A custom function instruction under a version-1 selector is a request to the selected CXU (R201, R202). -/
theorem exec_cfForm_multiplex {i : Instr} {f : CfId} {d0 d1 : Word} {dest : Option Reg}
    (hi : CfForm s i f d0 d1 dest) (hs : Selects s cx) :
    exec i s = .next (s.multiplex
      { cxu := selCxuId s.mcxSelector, state := selStateId s.mcxSelector, insn := encode s.cfg i, func := .cf f,
        data0 := d0, data1 := d1 } dest) := by
  obtain ⟨k, not3, _, e⟩ := exec_cfForm hi
  rw [e]
  unfold State.customOp
  simp [hs.version, hs.cxe, not3, versionReserved]

/-- A stateless extension answers a valid CF_ID with its pure function and leaves the machine alone (R9, R212). -/
theorem decideOp_stateless {r : CxuRequest} {f : CfId} (hcx : cxuOf s.cfg r.cxu = some cx)
    (hstate : validState cx r.state = true) (hless : cx.stateful = false) (hr : r.func = .cf f)
    (hf : f ∈ cx.validCfs) :
    s.decideOp r = (norm s.cfg.xlen (cx.pureCf f r.data0 r.data1 r.insn).1,
      respFlag (pureResp (cx.pureCf f r.data0 r.data1 r.insn).2), s) := by
  have valid : validFunc s.cfg cx (.cf f) r.data1 = true := by simp [validFunc, hf]
  simp [State.decideOp, hcx, hstate, hless, hr, valid, State.perform, State.performCf]

/-- The status `OP` sets bit 5 of `cx_status`, the status OK sets nothing (R38, R202). -/
theorem setFlag_pureResp_cxStatus (op : Bool) :
    (s.setFlag (respFlag (pureResp op))).cxStatus = if op then s.cxStatus ||| 32#32 else s.cxStatus := by
  cases op <;> rfl

/-- Settles O42: the request reaches the pure function of the extension, and the answer is all that changes. -/
theorem statelessFunctionResult : Obligations.StatelessFunctionResult := by
  intro s i f d0 d1 dest cx hi hs hless hf
  have run := exec_cfForm_multiplex hi hs
  unfold State.multiplex at run
  rw [decideOp_stateless hs.cxu hs.state hless rfl hf] at run
  refine ⟨_, run, advanced_answer s _ dest _, ?_, ?_⟩
  · intro rd hd
    have held := destHolds_answer s (respFlag (pureResp (cx.pureCf f d0 d1 (encode s.cfg i)).2)) dest
      (norm s.cfg.xlen (cx.pureCf f d0 d1 (encode s.cfg i)).1) rd hd
    simpa [State.holds] using held
  · simpa using setFlag_pureResp_cxStatus (s := s) (cx.pureCf f d0 d1 (encode s.cfg i)).2

end Stateless

end Sys2Proof.Machine
end

/-! ### What an instruction can do to the machine: the one case analysis over the instructions (R15, R301) -/

section
namespace Sys2Proof.Machine

/-- The ways an instruction `i` can take the machine to its next state: a register and `pc + 4`, a transfer of control
to a multiple of 4, a store, an exception, the return from one, or one of the two shared operations, the access of a
CSR and the custom operation. -/
inductive Effect (s : State) (i : Instr) : State → Prop where
  | result (rd : Reg) (v : Word) : Effect s i (s.setX rd v).advance
  | next : Effect s i s.advance
  | goto (target : Word) (aligned : target &&& 3#64 = 0) : Effect s i (s.setPc target)
  | link (rd : Reg) (v target : Word) (aligned : target &&& 3#64 = 0) : Effect s i ((s.setX rd v).setPc target)
  | store32 (a : Word) (v : BitVec 32) : Effect s i (s.write32 a v).advance
  | store64 (a v : Word) : Effect s i (s.write64 a v).advance
  | trap (cause : TrapCause) (tval : Word) : Effect s i (s.takeTrap cause tval)
  | trapFree (cause : TrapCause) : Effect s i (s.trapFreeTval cause)
  | ret (hi : i = .mret) (level : s.priv = .machine) : Effect s i s.returnFromTrap
  | csr {a : CsrAddr} {rd : Reg} {fn : CsrFn} {src : Word} (form : CsrForm s i a rd fn src) :
      Effect s i (s.csrCommon (encode s.cfg i) a fn src rd)
  | custom {dest : Option Reg} (form : CustomOpForm s i dest) (kind : OpKind) (func : FuncId) (d0 d1 : Word) :
      Effect s i (s.customOp kind (encode s.cfg i) func d0 d1 dest)

section Cases

variable (s : State) (i : Instr)

theorem branch_effect (taken : Bool) (off : BitVec 12) : Effect s i (s.branch taken off) := by
  unfold State.branch
  split
  · unfold State.jump
    split
    · next aligned => exact .goto _ aligned
    · exact .trapFree _
  · exact .next

theorem loadTo_effect (rd : Reg) (a : Word) (n : Nat) (v : Word) : Effect s i (s.loadTo rd a n v) := by
  unfold State.loadTo
  split
  · exact .trap _ _
  · split
    · exact .result rd v
    · exact .trap _ _
    · exact .trap _ _

theorem storeTo_effect (a : Word) (n : Nat) {stored : State} (h : Effect s i stored.advance) :
    Effect s i (s.storeTo a n stored) := by
  unfold State.storeTo
  split
  · exact .trap _ _
  · split
    · exact h
    · exact .trap _ _
    · exact .trap _ _

variable {s i} {t : State}

theorem customOpForm_effect {dest : Option Reg} (form : CustomOpForm s i dest) (h : exec i s = .next t) :
    Effect s i t := by
  obtain ⟨kind, func, d0, d1, run, _⟩ := exec_customOpForm form
  cases run.symm.trans h
  exact .custom form kind func d0 d1

theorem csrForm_effect {a : CsrAddr} {rd : Reg} {fn : CsrFn} {src : Word} (form : CsrForm s i a rd fn src)
    (h : exec i s = .next t) : Effect s i t := by
  cases (exec_csrForm form).symm.trans h
  exact .csr form

/-- Every instruction has one of the effects. -/
theorem exec_effect (h : exec i s = .next t) : Effect s i t := by
  cases i with
  | cxReg => exact customOpForm_effect (.cf (.reg ..)) h
  | cxImm => exact customOpForm_effect (.cf (.imm ..)) h
  | cxFlex => exact customOpForm_effect (.cf (.flex ..)) h
  | cxFlex25 => exact customOpForm_effect (.cf (.flex25 ..)) h
  | custom3 => exact customOpForm_effect (.custom3 _) h
  | cxReadStatus => exact customOpForm_effect (.cf (.readStatus ..)) h
  | cxWriteStatus => exact customOpForm_effect (.cf (.writeStatus ..)) h
  | cxReadState => exact customOpForm_effect (.cf (.readState ..)) h
  | cxWriteState => exact customOpForm_effect (.cf (.writeState ..)) h
  | csrrw => exact csrForm_effect (.w ..) h
  | csrrs => exact csrForm_effect (.s ..) h
  | csrrc => exact csrForm_effect (.c ..) h
  | csrrwi => exact csrForm_effect (.wi ..) h
  | csrrsi => exact csrForm_effect (.si ..) h
  | csrrci => exact csrForm_effect (.ci ..) h
  | lui => cases h; exact .result _ _
  | addi => cases h; exact .result _ _
  | add => cases h; exact .result _ _
  | andi => cases h; exact .result _ _
  | slli =>
    cases h
    split
    · exact .trap _ _
    · exact .result _ _
  | srli =>
    cases h
    split
    · exact .trap _ _
    · exact .result _ _
  | lw => cases h; exact loadTo_effect s _ _ _ _ _
  | ld =>
    cases h
    split
    · exact .trap _ _
    · exact loadTo_effect s _ _ _ _ _
  | sw => cases h; exact storeTo_effect s _ _ _ (.store32 _ _)
  | sd =>
    cases h
    split
    · exact .trap _ _
    · exact storeTo_effect s _ _ _ (.store64 _ _)
  | beq => cases h; exact branch_effect s _ _ _
  | bne => cases h; exact branch_effect s _ _ _
  | jal =>
    cases h
    unfold State.jump
    split
    · next aligned => exact .link _ _ _ aligned
    · exact .trapFree _
  | ecall => cases h; exact .trap _ _
  | mret =>
    cases h
    split
    · next level => exact .ret rfl level
    · exact .trap _ _

end Cases

end Sys2Proof.Machine
end

/-! ### The invariant, kept by every step (R22 to R47, R249, R301, R302) -/

section
namespace Sys2Proof.Machine

/-- The fields of a context fit the bits its extension implements (R52, R56). -/
structure CtxFits (cfg : Config) (cx : ExtConfig) (k : Ctx) : Prop where
  error : cx.errBits cfg.xlen k.error = k.error
  index : keepLow16 cx.indexW k.index = k.index

/-- `(c, i)` names a state context of the configured extension `cx` (R47). -/
structure NamesCtx (cfg : Config) (cx : ExtConfig) (c i : BitVec 8) : Prop where
  cxu : cxuOf cfg c = some cx
  state : i.toNat < cx.nContexts

namespace CtxFits

variable {cfg : Config} {cx : ExtConfig} {k : Ctx}

theorem powerUp (cfg : Config) (cx : ExtConfig) : CtxFits cfg cx (Ctx.powerUp cx) :=
  ⟨errBits_zero cx _, keepLow16_zero _⟩

/-- The extension's state, the status and the reset of a context are of no width. -/
theorem of_fields_eq {k' : Ctx} (h : CtxFits cfg cx k) (error : k'.error = k.error) (index : k'.index = k.index) :
    CtxFits cfg cx k' := ⟨error ▸ h.error, index ▸ h.index⟩

/-- A new error in the implemented bits. -/
theorem of_errBits {k' : Ctx} {v : Word} (h : CtxFits cfg cx k) (error : k'.error = cx.errBits cfg.xlen v)
    (index : k'.index = k.index) : CtxFits cfg cx k' :=
  ⟨by rw [error, errBits_errBits], index ▸ h.index⟩

/-- A new index in the implemented bits. -/
theorem of_keepLow16 {k' : Ctx} {v : BitVec 16} (h : CtxFits cfg cx k) (error : k'.error = k.error)
    (index : k'.index = keepLow16 cx.indexW v) : CtxFits cfg cx k' :=
  ⟨error ▸ h.error, by rw [index, keepLow16_keepLow16]⟩

theorem startReset (h : CtxFits cfg cx k) (steps : Nat) : CtxFits cfg cx (k.startReset steps) := by
  unfold Ctx.startReset
  split
  · exact h
  · exact h.of_fields_eq rfl rfl

theorem turnOff (h : CtxFits cfg cx k) (st : CxState) (v : Word) : CtxFits cfg cx (k.turnOff cx cfg.xlen st v) :=
  h.of_errBits rfl rfl

theorem completeReset (cfg : Config) (cx : ExtConfig) (k : Ctx) : CtxFits cfg cx (k.completeReset cx) :=
  ⟨errBits_zero cx _, keepLow16_zero _⟩

theorem indexWrite (h : CtxFits cfg cx k) (v : Word) : CtxFits cfg cx (k.indexWrite cx v) where
  error := h.error
  index := by
    unfold Ctx.indexWrite
    dsimp only
    split
    · exact keepLow16_keepLow16 _ _
    · exact keepLow16_zero _

theorem bumpIndex (h : CtxFits cfg cx k) : CtxFits cfg cx (k.bumpIndex cx) := by
  unfold Ctx.bumpIndex
  split
  · refine ⟨h.error, ?_⟩
    dsimp only
    split
    · exact keepLow16_keepLow16 _ _
    · exact keepLow16_zero _
  · exact h

end CtxFits

/-! #### Values that fit their fields -/

theorem code_mcauseBits (x : Xlen) (cause : TrapCause) : keepLow (xlenBits x - 1) cause.code = cause.code := by
  cases x <;> cases cause <;> decide

theorem implemented_legalMpp (s : State) (v : Word) : implemented s.cfg.modes (s.legalMpp v) = true := by
  unfold State.legalMpp
  split
  · split
    · assumption
    · exact implemented_pickLevel _ _
  · exact implemented_pickLevel _ _

/-- Registers cut to XLEN bits, with `x[0]` zeroed, hold XLEN-bit values (R22). -/
theorem norm_legalRegisters (x : Xlen) (v : Vector Word 32) (i : Fin 32) :
    norm x ((v.map (norm x)).set 0 0)[i] = ((v.map (norm x)).set 0 0)[i] := by
  by_cases zero : i = 0
  · simp [zero]
  · have other : 0 ≠ i.val := fun e => zero (Fin.ext e.symm)
    simp [other]

/-- A 10-bit index stays inside the bits of `cx_index` (R45). -/
theorem index_bits (k : BitVec 10) : k.setWidth 32 &&& 0x3FF#32 = k.setWidth 32 := by
  have small := k.isLt
  apply BitVec.eq_of_toNat_eq
  rw [BitVec.toNat_and, show (0x3FF#32).toNat = 2 ^ 10 - 1 from rfl, Nat.and_two_pow_sub_one_eq_mod,
    BitVec.toNat_setWidth]
  omega

/-- A register that holds an XLEN-bit multiple of 4 (R302), such as `mtvec` and `mepc`, holds one under each reading. -/
theorem norm_of_address {x : Xlen} {v : Word} (h : clear2 (norm x v) = v) : norm x v = v := by
  rw [← h, norm_clear2, norm_norm]

theorem clear2_of_address {x : Xlen} {v : Word} (h : clear2 (norm x v) = v) : clear2 v = v := by
  rw [← h, clear2_clear2]

/-- A valid STATE_ID of a stateful extension names one of its contexts (R207). -/
theorem namesCtx_of_validState {cfg : Config} {cx : ExtConfig} {r : CxuRequest}
    (hc : cxuOf cfg r.cxu = some cx) (valid : validState cx r.state = true) (stateful : cx.stateful = true) :
    NamesCtx cfg cx r.cxu r.state :=
  ⟨hc, by simpa [validState, stateful] using valid⟩

/-- The resets in progress advance; one that completes leaves the initial context of its extension (R249). -/
theorem tickCtx_ok {cfg : Config} {e : Nat × Ctx} (h : CtxEntryOk cfg e) : CtxEntryOk cfg (tickCtx cfg e) := by
  unfold tickCtx
  split
  · split
    · exact ⟨h.key, h.configured⟩
    · split
      · next cx found =>
        obtain ⟨cx', configured, state, _, _⟩ := h.configured
        cases found.symm.trans configured
        have fits := CtxFits.completeReset cfg cx e.2
        exact ⟨h.key, cx, found, state, fits.error, fits.index⟩
      · exact h
  · exact h

theorem tickCtx_key (cfg : Config) (e : Nat × Ctx) : (tickCtx cfg e).1 = e.1 := by
  unfold tickCtx
  split
  · split
    · rfl
    · split <;> rfl
  · rfl

namespace State.Inv

variable {s : State}

/-! #### The hart -/

theorem setX (inv : s.Inv) (rd : Reg) (v : Word) : (s.setX rd v).Inv := by
  unfold State.setX
  split
  · exact inv
  · next hrd =>
    have other : rd.toNat ≠ 0 := fun e => hrd (BitVec.eq_of_toNat_eq e)
    refine { inv with xZero := ?_, xWidth := fun j => ?_ }
    · exact (Vector.getElem_set_ne rd.isLt (by decide) other).trans inv.xZero
    · by_cases h : rd.toNat = j.val
      · simp [h]
      · have kept := inv.xWidth j
        simpa [h] using kept

theorem setDest (inv : s.Inv) (dest : Option Reg) (v : Word) : (s.setDest dest v).Inv := by
  cases dest with
  | none => exact inv
  | some rd => exact inv.setX rd v

/-- A transfer of control to a multiple of 4 (R24). -/
theorem setPc (inv : s.Inv) {target : Word} (h : clear2 target = target) : (s.setPc target).Inv :=
  { inv with pcWidth := norm_norm _ _, pcAligned := by rw [setPc_pc, ← norm_clear2, h] }

theorem advance (inv : s.Inv) : s.advance.Inv := inv.setPc (clear2_add4 inv.pcAligned)

theorem drawn (inv : s.Inv) : s.drawn.Inv := { inv with }

theorem setFlag (inv : s.Inv) (f : Option CxFlag) : (s.setFlag f).Inv := by
  cases f with
  | none => exact inv
  | some f => exact { inv with status := statusBits_into f inv.status }

/-- Taking an exception keeps the invariant (R344). -/
theorem takeTrap (inv : s.Inv) (cause : TrapCause) (tval : Word) : (s.takeTrap cause tval).Inv :=
  { inv with
    pcWidth := (norm_clear2 _ _).trans (congrArg clear2 (norm_of_address inv.mtvec))
    pcAligned := clear2_clear2 _
    level := implemented_machine _
    mstatus := ⟨false, mstatusMie s.mstatus, s.priv, inv.level, rfl⟩
    mepc := (congrArg clear2 inv.pcWidth).trans inv.pcAligned
    mcause := code_mcauseBits _ cause
    mtval := norm_norm _ _ }

theorem illegal (inv : s.Inv) (insn : Insn) : (s.illegal insn).Inv := inv.takeTrap _ _

theorem trapFreeTval (inv : s.Inv) (cause : TrapCause) : (s.trapFreeTval cause).Inv := inv.drawn.takeTrap cause _

/-- `mret` returns to the implemented level in `MPP` (R302, R320). -/
theorem returnFromTrap (inv : s.Inv) : s.returnFromTrap.Inv := by
  obtain ⟨mie, mpie, mpp, implements, stored⟩ := inv.mstatus
  refine { inv with
    pcWidth := norm_of_address inv.mepc
    pcAligned := clear2_of_address inv.mepc
    level := ?_
    mstatus := ⟨_, _, leastLevel s.cfg.modes, implemented_leastLevel _, rfl⟩ }
  rw [returnFromTrap_priv, stored, mpp_mstatusOf]
  exact implements

/-- What a built-in instruction leaves is made legal field by field (R210). -/
theorem withLegalHart (inv : s.Inv) (h : Hart) : State.Inv { s with toHart := h.legal s.cfg } :=
  { inv with
    xZero := by simp [Hart.legal]
    xWidth := norm_legalRegisters s.cfg.xlen h.x
    pcWidth := by simp [Hart.legal]
    pcAligned := clear2_clear2 _
    level := by
      unfold Hart.legal
      dsimp only
      split
      · assumption
      · exact implemented_machine _
    selector := selectorBits_selectorBits _
    status := statusBits_statusBits _
    table := tableBits_tableBits s.cfg h.mcxTable
    index := by simp [Hart.legal, BitVec.and_assoc]
    mstatus := by
      refine ⟨_, _, _, ?_, rfl⟩
      split
      · assumption
      · exact implemented_machine _
    mtvec := by simp [Hart.legal]
    mscratch := norm_norm _ _
    mepc := by simp [Hart.legal]
    mcause := keepLow_keepLow _ _
    mtval := norm_norm _ _ }

theorem builtin (inv : s.Inv) (insn : Insn) : (s.builtin insn).Inv := by
  unfold State.builtin
  split
  · exact inv.illegal insn
  · split
    · exact inv.illegal insn
    · exact inv.withLegalHart _

/-! #### The CSRs of the hart -/

theorem writeSelector (inv : s.Inv) (v : BitVec 32) : (s.writeSelector v).Inv := by
  have stored : State.Inv { s with mcxSelector := selectorBits v } :=
    { inv with selector := selectorBits_selectorBits v }
  unfold State.writeSelector
  dsimp only
  split
  · exact stored.setFlag _
  · exact stored

theorem writeCxStatus (inv : s.Inv) (v : BitVec 32) : (s.writeCxStatus v).Inv :=
  { inv with status := statusBits_statusBits v }

theorem writeTable (inv : s.Inv) (v : Word) : (s.writeTable v).Inv :=
  { inv with table := tableBits_tableBits s.cfg v }

theorem setCxIndex (inv : s.Inv) (k : BitVec 10) : State.Inv { s with cxIndex := k.setWidth 32 } :=
  { inv with index := index_bits k }

/-- A write of a base CSR leaves legal fields (R302). -/
theorem writeBase (inv : s.Inv) (r : BaseCsr) (v : Word) : (s.writeBase r v).Inv := by
  cases r with
  | mstatus => exact { inv with mstatus := ⟨_, _, _, implemented_legalMpp s v, rfl⟩ }
  | mtvec => exact { inv with mtvec := by simp [State.writeBase] }
  | mscratch => exact { inv with mscratch := norm_norm _ _ }
  | mepc => exact { inv with mepc := by simp [State.writeBase] }
  | mcause => exact { inv with mcause := keepLow_keepLow _ _ }
  | mtval => exact { inv with mtval := norm_norm _ _ }

/-! #### Memory -/

theorem setByte (inv : s.Inv) (a : Word) (k : Nat) (b : BitVec 8) : (s.setByte a k b).Inv :=
  have ok := setByte_mem_ok s inv.mem inv.memBound a k b
  { inv with mem := ok.1, memBound := ok.2 }

theorem write32 (inv : s.Inv) (a : Word) (v : BitVec 32) : (s.write32 a v).Inv :=
  (((inv.setByte a 0 _).setByte a 1 _).setByte a 2 _).setByte a 3 _

theorem write64 (inv : s.Inv) (a v : Word) : (s.write64 a v).Inv := (inv.write32 a _).write32 (a + 4) _

/-! #### State contexts -/

section Contexts

variable {cx : ExtConfig} {c i : BitVec 8}

/-- A context read fits its bits: a listed one by the invariant, an unlisted one because it is the power-up state. -/
theorem ctx_fits (inv : s.Inv) (hc : cxuOf s.cfg c = some cx) : CtxFits s.cfg cx (s.ctx cx c i) := by
  unfold State.ctx
  cases found : Cells.get s.ctxs (ctxKey c i) with
  | none => exact .powerUp s.cfg cx
  | some k =>
    obtain ⟨_, cx', configured, _, error, index⟩ := inv.ctxOk _ (Cells.get_mem found)
    dsimp only at configured error index
    rw [(ctxKey_div c i).1, BitVec.ofNat_toNat, BitVec.setWidth_eq, hc] at configured
    cases configured
    exact ⟨error, index⟩

theorem setCtx (inv : s.Inv) (named : NamesCtx s.cfg cx c i) {k : Ctx} (fits : CtxFits s.cfg cx k) :
    (s.setCtx c i k).Inv := by
  refine { inv with ctxOrder := Cells.sorted_set inv.ctxOrder _ _, ctxOk := fun e he => ?_ }
  rcases Cells.mem_set he with rfl | old
  · obtain ⟨hdiv, hmod⟩ := ctxKey_div c i
    refine ⟨?_, cx, ?_, ?_, fits.error, fits.index⟩
    · have := c.isLt
      dsimp only
      omega
    · dsimp only
      rw [hdiv, BitVec.ofNat_toNat, BitVec.setWidth_eq]
      exact named.cxu
    · dsimp only
      rw [hmod]
      exact named.state
  · exact inv.ctxOk e old

theorem setCtxDrawn (inv : s.Inv) (named : NamesCtx s.cfg cx c i) {k : Ctx} (fits : CtxFits s.cfg cx k) :
    (s.setCtxDrawn c i k).Inv := (inv.setCtx named fits).drawn

variable (inv : s.Inv) (named : NamesCtx s.cfg cx c i)
include inv named

theorem statusWrite (v : Word) : (s.statusWrite cx c i v).Inv := by
  have fits : CtxFits s.cfg cx (s.ctx cx c i) := inv.ctx_fits named.cxu
  unfold State.statusWrite
  dsimp only
  split
  · exact inv.setCtxDrawn named (fits.startReset _)
  · split
    · exact inv.setCtxDrawn named (fits.of_errBits rfl rfl)
    · exact inv.setCtx named (fits.of_fields_eq rfl rfl)

theorem dataAccess (fn : CsrFn) (d0 : Word) : (s.dataAccess cx c i fn d0).2.Inv := by
  have fits : CtxFits s.cfg cx (s.ctx cx c i) := inv.ctx_fits named.cxu
  unfold State.dataAccess
  dsimp only
  split
  · refine inv.setCtx named (CtxFits.bumpIndex ?_)
    split
    · exact fits
    · exact fits.of_fields_eq rfl rfl
  · exact inv.setCtxDrawn named fits.bumpIndex

theorem stdCsrOff (r : StdCsr) (fn : CsrFn) (d0 : Word) : (s.stdCsrOff cx c i r fn d0).2.Inv := by
  have fits : CtxFits s.cfg cx (s.ctx cx c i) := inv.ctx_fits named.cxu
  unfold State.stdCsrOff
  cases r with
  | error =>
    dsimp only
    split
    · exact inv
    · exact inv.setCtx named (fits.of_errBits rfl rfl)
  | status =>
    dsimp only
    split_ifs
    · exact inv.drawn
    · exact inv.setCtxDrawn named (fits.startReset _)
    · exact inv.drawn
    · exact inv.setCtxDrawn named (fits.of_fields_eq rfl rfl)
  | index =>
    dsimp only
    split
    · exact inv
    · exact inv.setCtxDrawn named (fits.of_keepLow16 rfl rfl)
  | data => exact inv.drawn

theorem stdCsrActive (r : StdCsr) (fn : CsrFn) (d0 : Word) : (s.stdCsrActive cx c i r fn d0).2.Inv := by
  have fits : CtxFits s.cfg cx (s.ctx cx c i) := inv.ctx_fits named.cxu
  unfold State.stdCsrActive
  cases r with
  | error =>
    dsimp only
    split
    · exact inv
    · exact inv.setCtx named (fits.of_errBits rfl rfl)
  | status =>
    dsimp only
    split
    · exact inv
    · exact inv.statusWrite named _
  | index =>
    dsimp only
    split
    · exact inv
    · exact inv.setCtx named (fits.indexWrite _)
  | data => exact inv.dataAccess named fn d0

/-- An access of a mandatory CX CSR (R240, R248). -/
theorem stdCsr (r : StdCsr) (fn : CsrFn) (d0 : Word) : (s.stdCsr cx c i r fn d0).2.Inv := by
  unfold State.stdCsr
  split
  · cases r <;> exact inv.drawn
  · split
    · exact inv.stdCsrOff named r fn d0
    · exact inv.stdCsrActive named r fn d0

theorem writeStatus (d0 : Word) : (s.writeStatus cx c i d0).Inv := by
  have fits : CtxFits s.cfg cx (s.ctx cx c i) := inv.ctx_fits named.cxu
  unfold State.writeStatus
  dsimp only
  split
  · exact inv.setCtxDrawn named (fits.startReset _)
  · exact inv.setCtxDrawn named (fits.turnOff _ _)
  · exact inv.setCtx named (fits.of_errBits rfl rfl)
  · exact inv.setCtx named (fits.of_errBits rfl rfl)

theorem writeState (d0 d1 : Word) : (s.writeState cx c i d0 d1).Inv := by
  unfold State.writeState
  dsimp only
  split
  · exact inv.setCtx named ((inv.ctx_fits named.cxu).of_fields_eq rfl rfl)
  · exact inv

/-- A standard custom function (R287). -/
theorem stdCf (f : StdFn) (d0 d1 : Word) : (s.stdCf cx c i f d0 d1).2.Inv := by
  cases f with
  | readStatus => exact inv
  | writeStatus => exact inv.writeStatus named d0
  | readState =>
    change (s.readState cx c i d0).2.Inv
    unfold State.readState
    dsimp only
    split
    · exact inv
    · exact inv.drawn
  | writeState => exact inv.writeState named d0 d1

end Contexts

/-! #### Custom operations -/

section Requests

variable {cx : ExtConfig} {r : CxuRequest}

/-- The commit of a result keeps the error in its bits (R211). -/
theorem commitCtx (inv : s.Inv) (named : NamesCtx s.cfg cx r.cxu r.state) (res : CxResult) :
    (s.commitCtx cx r res).Inv := by
  have fits : CtxFits s.cfg cx (s.ctx cx r.cxu r.state) := inv.ctx_fits named.cxu
  unfold State.commitCtx
  refine inv.setCtx named ?_
  split
  · exact fits.of_errBits rfl rfl
  · exact fits.of_errBits rfl rfl

variable (inv : s.Inv) (named : cx.stateful = true → NamesCtx s.cfg cx r.cxu r.state)
include inv named

theorem performCf (f : CfId) : (s.performCf cx r f).2.2.Inv := by
  unfold State.performCf
  split
  · next stateful =>
    split
    · exact inv.stdCf (named stateful) _ r.data0 r.data1
    · exact inv.commitCtx (named stateful) _
  · exact inv

theorem performOtherCsr (fn : CsrFn) (a : CsrAddr) : (s.performOtherCsr cx r fn a).2.2.Inv := by
  unfold State.performOtherCsr
  split
  · exact inv
  · unfold State.performExtCsr
    split
    · next stateful => exact inv.commitCtx (named stateful) _
    · exact inv

theorem performCsr (fn : CsrFn) (a : CsrAddr) : (s.performCsr cx r fn a).2.2.Inv := by
  unfold State.performCsr
  split
  · next stateful =>
    split
    · exact inv.stdCsr (named stateful) _ fn r.data0
    · exact inv.performOtherCsr named fn a
  · exact inv.performOtherCsr named fn a

theorem perform : (s.perform cx r).2.2.Inv := by
  unfold State.perform
  split
  · exact inv.performCf named _
  · exact inv.performCsr named _ _

end Requests

/-- The decision of a request writes a context only of a valid selection (R203). -/
theorem decideOp (inv : s.Inv) (r : CxuRequest) : (s.decideOp r).2.2.Inv := by
  rcases decideOp_cases s r with
    ⟨_, e⟩ | ⟨cx, hc, ⟨_, e⟩ | ⟨_, _, _, _, e⟩ | ⟨_, _, e⟩ | ⟨valid, _, e⟩⟩ <;> rw [e]
  · exact inv
  · exact inv
  · exact inv.drawn
  · exact inv.drawn
  · exact inv.perform (namesCtx_of_validState hc valid)

theorem multiplex (inv : s.Inv) (r : CxuRequest) (dest : Option Reg) : (s.multiplex r dest).Inv :=
  (((inv.decideOp r).setFlag _).setDest dest _).advance

theorem customOp (inv : s.Inv) (kind : OpKind) (insn : Insn) (func : FuncId) (d0 d1 : Word) (dest : Option Reg) :
    (s.customOp kind insn func d0 d1 dest).Inv := by
  rcases customOp_cases s kind insn func d0 d1 dest with
    ⟨_, e⟩ | ⟨_, _, e⟩ | ⟨_, _, _, e⟩ | ⟨_, _, _, _, e⟩ <;> rw [e]
  · exact ((inv.setFlag _).setDest dest 0).advance
  · exact inv.illegal insn
  · exact inv.builtin insn
  · exact inv.multiplex _ dest

/-! #### CSR instructions -/

theorem cxIsaAccess (inv : s.Inv) (insn : Insn) (r : CxIsaCsr) (fn : CsrFn) (src : Word) (rd : Reg) :
    (s.cxIsaAccess insn r fn src rd).Inv := by
  unfold State.cxIsaAccess
  dsimp only
  split
  · exact inv.illegal insn
  split
  · exact (inv.setX rd _).advance
  cases r with
  | cxIndex =>
    dsimp only
    rcases writeIndex_cases s (csrNew fn (s.readCxIsa .cxIndex) src) with ⟨e, _⟩ | ⟨cause, e, _⟩ <;> rw [e]
    · exact (((inv.setCxIndex _).writeSelector _).setX rd _).advance
    · exact inv.takeTrap _ _
  | cxStatus => exact ((inv.writeCxStatus _).setX rd _).advance
  | mcxSelector => exact ((inv.writeSelector _).setX rd _).advance
  | mcxTable => exact ((inv.writeTable _).setX rd _).advance

theorem baseAccess (inv : s.Inv) (r : BaseCsr) (fn : CsrFn) (src : Word) (rd : Reg) :
    (s.baseAccess r fn src rd).Inv := by
  unfold State.baseAccess
  dsimp only
  split
  · exact (inv.setX rd _).advance
  · exact ((inv.writeBase r _).setX rd _).advance

theorem csrCommon (inv : s.Inv) (insn : Insn) (a : CsrAddr) (fn : CsrFn) (src : Word) (rd : Reg) :
    (s.csrCommon insn a fn src rd).Inv := by
  rcases csrCommon_cases s insn a fn src rd with
    ⟨_, e⟩ | ⟨_, ⟨r, _, e⟩ | ⟨_, e⟩ | ⟨r, _, e⟩ | ⟨_, e⟩⟩ <;> rw [e]
  · exact inv.illegal insn
  · exact inv.cxIsaAccess insn r fn src rd
  · exact inv.customOp _ insn _ src _ _
  · exact inv.baseAccess r fn src rd
  · exact inv.illegal insn

/-! #### The step -/

theorem tick (inv : s.Inv) : s.tick.Inv := by
  refine { inv with ctxOrder := ?_, ctxOk := fun e he => ?_ }
  · have keys : s.tick.ctxs.map Prod.fst = s.ctxs.map Prod.fst := by
      simp [tickCtx_key]
    unfold Cells.sorted
    rw [keys]
    exact inv.ctxOrder
  · obtain ⟨e', he', rfl⟩ := List.mem_map.mp he
    exact tickCtx_ok (inv.ctxOk e' he')

/-- Every effect of an instruction keeps the invariant. -/
theorem of_effect {i : Instr} {t : State} (inv : s.Inv) (h : Effect s i t) : t.Inv := by
  cases h with
  | result rd v => exact (inv.setX rd v).advance
  | next => exact inv.advance
  | goto target aligned => exact inv.setPc (clear2_eq_self aligned)
  | link rd v target aligned => exact (inv.setX rd v).setPc (clear2_eq_self aligned)
  | store32 a v => exact (inv.write32 a v).advance
  | store64 a v => exact (inv.write64 a v).advance
  | trap cause tval => exact inv.takeTrap cause tval
  | trapFree cause => exact inv.trapFreeTval cause
  | ret => exact inv.returnFromTrap
  | csr => exact inv.csrCommon _ _ _ _ _
  | custom => exact inv.customOp _ _ _ _ _ _

theorem hartStep {t : State} (inv : s.Inv) (h : s.hartStep = .next t) : t.Inv := by
  unfold State.hartStep at h
  split at h
  · split at h
    · exact inv.of_effect (exec_effect h)
    · cases h
      exact inv.illegal _
  · cases h
    exact inv.trapFreeTval _

end State.Inv

/-- Settles O7: the resets in progress and the hart's part of the step keep the invariant, one after the other. -/
theorem stepKeepsInvariant : Obligations.StepKeepsInvariant := by
  intro s t inv h
  exact inv.tick.hartStep h

end Sys2Proof.Machine
end

/-! ### What reset leaves in the hart and in the contexts (R63 to R65, R302) -/

section
namespace Sys2Proof.Machine

/-- Settles O9, by what reset leaves in each field. -/
theorem everyResetMeetsInvariant : Obligations.EveryResetMeetsInvariant := resetOf_inv

/-- Settles O11: a reset address that is an XLEN-bit multiple of 4 is not altered; the other values are constants. -/
theorem resetOfTheHart : Obligations.ResetOfTheHart := by
  intro p
  refine ⟨rfl, rfl, rfl, rfl, rfl, fun width aligned => ?_, rfl, mie_mstatusOf _ _ _, mpie_mstatusOf _ _ _, rfl⟩
  calc (State.resetOf p).pc = clear2 (norm p.cfg.xlen p.pc) := rfl
    _ = clear2 p.pc := by rw [width]
    _ = p.pc := clear2_eq_self aligned

/-- Every context reads as the power-up state after reset: a listed one is one, and an unlisted one reads as one (R64). -/
theorem resetOf_ctx (p : ResetParams) {cx : ExtConfig} {c : BitVec 8} (i : BitVec 8)
    (distinct : (p.cfg.cxus.map Prod.fst).Nodup) (hc : cxuOf p.cfg c = some cx) :
    (State.resetOf p).ctx cx c i = Ctx.powerUp cx := by
  change (Cells.get (powerUpCtxs p.cfg) (ctxKey c i)).getD _ = _
  cases found : Cells.get (powerUpCtxs p.cfg) (ctxKey c i) with
  | none => rfl
  | some k =>
    obtain ⟨⟨c', cx'⟩, listed, j, _, entry⟩ := mem_powerUpCtxs (Cells.get_mem found)
    obtain ⟨key, rfl⟩ := Prod.mk.inj entry
    obtain ⟨rfl, _⟩ := ctxKey_inj key
    have same : cx = cx' := Option.some.inj (hc.symm.trans (cxuOf_of_mem distinct listed))
    rw [same]
    rfl

/-- Settles O12: the initial state is the power-up state. -/
theorem resetOfTheContexts : Obligations.ResetOfTheContexts := by
  intro p cx c i wf hc _
  rw [resetOf_ctx p i wf.cxuIds hc]
  exact ⟨rfl, rfl, rfl, rfl, rfl, rfl⟩

end Sys2Proof.Machine
end

/-! ### The flags of `cx_status` are sticky (R37, R205) -/

section
namespace Sys2Proof.Machine

/-- Every flag set in `s` is set in `t` (R37). -/
def KeepsFlags (s t : State) : Prop := s.cxStatus &&& t.cxStatus = s.cxStatus

/-- The flags after one is set depend on the flags before it alone. -/
theorem setFlag_cxStatus_congr {s t : State} (h : t.cxStatus = s.cxStatus) (f : Option CxFlag) :
    (t.setFlag f).cxStatus = (s.setFlag f).cxStatus := by
  cases f with
  | none => exact h
  | some f => exact congrArg f.into h

namespace KeepsFlags

variable {s t : State}

theorem of_cxStatus_eq (h : t.cxStatus = s.cxStatus) : KeepsFlags s t := by
  unfold KeepsFlags
  rw [h, BitVec.and_self]

/-- An update after which a flag of `s` is set, or none, keeps the others (R205 (f)). -/
theorem of_setFlag {f : Option CxFlag} (h : t.cxStatus = (s.setFlag f).cxStatus) : KeepsFlags s t := by
  cases f with
  | none => exact of_cxStatus_eq h
  | some f =>
    unfold KeepsFlags
    rw [h]
    exact into_monotone f s.cxStatus

end KeepsFlags

/-- An operation on a context leaves the hart alone (R9). -/
theorem CtxUpdate.toHart_eq {s t : State} {c i : BitVec 8} (h : CtxUpdate s c i t) : t.toHart = s.toHart := by
  cases h <;> rfl

/-- Without built-in instructions a dispatch to the CPU's own is an illegal instruction (R210). -/
theorem builtin_eq_illegal {s : State} (h : s.cfg.builtin = none) (insn : Insn) : s.builtin insn = s.illegal insn := by
  unfold State.builtin
  rw [h]

/-- The CX-ISA CSRs are those at their four addresses (R26, R160). -/
theorem csrClass_cxIsa_iff (a : CsrAddr) (r : CxIsaCsr) : csrClass a = .cxIsa r ↔ cxIsaCsr? a = some r := by
  unfold csrClass
  cases cxIsaCsr? a with
  | none =>
    dsimp only
    split_ifs
    · simp
    · split <;> simp
  | some r' => simp

theorem cxIsaCsr?_cxStatus {a : CsrAddr} (h : cxIsaCsr? a = some .cxStatus) : a = 0x801#12 := by
  unfold cxIsaCsr? at h
  split_ifs at h with _ status
  · cases h
  · exact status
  · cases h
  · cases h

section Instructions

variable (s : State)

/-- A request sets at most the one flag of its answer (R202). -/
theorem multiplex_keepsFlags (r : CxuRequest) (dest : Option Reg) : KeepsFlags s (s.multiplex r dest) := by
  have hart : (s.decideOp r).2.2.cxStatus = s.cxStatus := congrArg Hart.cxStatus (decideOp_update s r).toHart_eq
  apply KeepsFlags.of_setFlag (f := (s.decideOp r).2.1)
  unfold State.multiplex
  simpa using setFlag_cxStatus_congr hart _

variable {s}

theorem customOp_keepsFlags (h : s.cfg.builtin = none) (kind : OpKind) (insn : Insn) (func : FuncId) (d0 d1 : Word)
    (dest : Option Reg) : KeepsFlags s (s.customOp kind insn func d0 d1 dest) := by
  rcases customOp_cases s kind insn func d0 d1 dest with
    ⟨_, e⟩ | ⟨_, _, e⟩ | ⟨_, _, _, e⟩ | ⟨_, _, _, _, e⟩ <;> rw [e]
  · exact .of_setFlag (f := some .invalidVersion) (by simp)
  · exact .of_cxStatus_eq rfl
  · rw [builtin_eq_illegal h]
    exact .of_cxStatus_eq rfl
  · exact multiplex_keepsFlags s _ dest

/-- A write of a selector sets `IV` or no flag (R171). -/
theorem writeSelector_keepsFlags (s : State) (v : BitVec 32) : KeepsFlags s (s.writeSelector v) := by
  rw [writeSelector_spec]
  cases versionReserved (selVersion v)
  · exact .of_cxStatus_eq rfl
  · exact .of_setFlag (f := some .invalidVersion) rfl

/-- An access of a CX-ISA CSR other than `cx_status` sets at most `IV` (R171, R175, R176). -/
theorem cxIsaAccess_keepsFlags {r : CxIsaCsr} (hr : r ≠ .cxStatus) (insn : Insn) (fn : CsrFn) (src : Word) (rd : Reg) :
    KeepsFlags s (s.cxIsaAccess insn r fn src rd) := by
  unfold State.cxIsaAccess
  dsimp only
  split
  · exact .of_cxStatus_eq rfl
  split
  · exact .of_cxStatus_eq (by simp)
  cases r with
  | cxIndex =>
    dsimp only
    rcases writeIndex_cases s (csrNew fn (s.readCxIsa .cxIndex) src) with ⟨e, _⟩ | ⟨cause, e, _⟩ <;> rw [e]
    · have kept := writeSelector_keepsFlags
        { s with cxIndex := (indexOf (csrNew fn (s.readCxIsa .cxIndex) src)).setWidth 32 }
        (s.read32 (s.entryAddr (indexOf (csrNew fn (s.readCxIsa .cxIndex) src))))
      simpa [KeepsFlags] using kept
    · exact .of_cxStatus_eq rfl
  | cxStatus => exact absurd rfl hr
  | mcxSelector =>
    have kept := writeSelector_keepsFlags s ((csrNew fn (s.readCxIsa .mcxSelector) src).setWidth 32)
    simpa [KeepsFlags] using kept
  | mcxTable => exact .of_cxStatus_eq (by simp)

theorem baseAccess_keepsFlags (r : BaseCsr) (fn : CsrFn) (src : Word) (rd : Reg) :
    KeepsFlags s (s.baseAccess r fn src rd) := by
  have written : ∀ v, (s.writeBase r v).cxStatus = s.cxStatus := fun v => by cases r <;> rfl
  unfold State.baseAccess
  dsimp only
  split
  · exact .of_cxStatus_eq (by simp)
  · exact .of_cxStatus_eq (by simp [written])

/-- A CSR instruction at another address than that of `cx_status` clears no flag. -/
theorem csrCommon_keepsFlags (h : s.cfg.builtin = none) {a : CsrAddr} (ha : a ≠ 0x801#12) (insn : Insn) (fn : CsrFn)
    (src : Word) (rd : Reg) : KeepsFlags s (s.csrCommon insn a fn src rd) := by
  rcases csrCommon_cases s insn a fn src rd with
    ⟨_, e⟩ | ⟨_, ⟨r, isa, e⟩ | ⟨_, e⟩ | ⟨r, _, e⟩ | ⟨_, e⟩⟩ <;> rw [e]
  · exact .of_cxStatus_eq rfl
  · have other : r ≠ .cxStatus := by
      rintro rfl
      exact ha (cxIsaCsr?_cxStatus ((csrClass_cxIsa_iff a _).mp isa))
    exact cxIsaAccess_keepsFlags other insn fn src rd
  · exact customOp_keepsFlags h _ insn _ src _ _
  · exact baseAccess_keepsFlags r fn src rd
  · exact .of_cxStatus_eq rfl

end Instructions

/-- Settles O58: each effect of an instruction keeps the flags; a CSR instruction has another address. -/
theorem flagsAreSticky : Obligations.FlagsAreSticky := by
  intro s t i hb run away
  change KeepsFlags s t
  cases exec_effect run with
  | result rd v => exact .of_cxStatus_eq (by simp)
  | next => exact .of_cxStatus_eq rfl
  | goto => exact .of_cxStatus_eq rfl
  | link rd v target => exact .of_cxStatus_eq (by simp)
  | store32 a v => exact .of_cxStatus_eq (by simp)
  | store64 a v => exact .of_cxStatus_eq (by simp)
  | trap => exact .of_cxStatus_eq rfl
  | trapFree => exact .of_cxStatus_eq rfl
  | ret => exact .of_cxStatus_eq rfl
  | csr form =>
    refine csrCommon_keepsFlags hb ?_ _ _ _ _
    rintro rfl
    exact away _ _ _ form
  | custom => exact customOp_keepsFlags hb _ _ _ _ _ _

end Sys2Proof.Machine
end

/-! ### Accesses and operations that raise illegal-instruction (R26, R32, R343, R344) -/

section
namespace Sys2Proof.Machine

section Exceptions

variable (s : State)

/-- Taking an exception saves `pc` and the level, enters machine level and leaves the rest (R344). -/
theorem takeTrap_entered (cause : TrapCause) (tval : Word) :
    TrapEntered s (s.takeTrap cause tval) cause.code (some tval) where
  mepc := rfl
  mcause := rfl
  mtval := by
    rintro v ⟨⟩
    rfl
  mstatus := rfl
  level := rfl
  pc := rfl
  rest :=
    { regs := fun _ _ => rfl
      csrs := by
        intro r hr
        cases r with
        | mepc | mcause | mtval | mstatus => simp at hr
        | _ => rfl
      ctxs := fun _ _ _ _ => rfl
      bytes := fun _ _ => rfl
      text := rfl
      cfg := rfl }

/-- An illegal instruction is the exception of code 2 with the word, or 0, in `mtval` (R343). -/
theorem illegal_entered (insn : Insn) : TrapEntered s (s.illegal insn) 2 (some (s.illegalTval insn)) := by
  have unfolded : s.illegal insn = s.takeTrap .illegalInstruction (s.illegalTval insn) := by
    unfold State.illegal State.illegalTval
    cases s.cfg.mtvalRule <;> rfl
  rw [unfolded]
  exact takeTrap_entered s .illegalInstruction _

end Exceptions

section Accesses

variable {s : State} {i : Instr} {a : CsrAddr} {rd : Reg} {fn : CsrFn} {src : Word}

/-- A CSR instruction at a CX-ISA CSR is its access, if the checks of the address pass, else illegal (R161, R164). -/
theorem exec_cxIsa {r : CxIsaCsr} (form : CsrForm s i a rd fn src) (hr : cxIsaCsr? a = some r) :
    (¬csrAllowed a fn s.priv ∧ exec i s = .next (s.illegal (encode s.cfg i))) ∨
    (csrAllowed a fn s.priv ∧ exec i s = .next (s.cxIsaAccess (encode s.cfg i) r fn src rd)) := by
  have isa : csrClass a = .cxIsa r := (csrClass_cxIsa_iff a r).mpr hr
  rw [exec_csrForm form, ← csrDenied_iff]
  unfold State.csrCommon
  rw [isa]
  cases csrDenied a (fn != .read) s.priv
  · exact .inr ⟨rfl, rfl⟩
  · exact .inl ⟨Bool.noConfusion, rfl⟩

theorem cxIsaAccess_absent {r : CxIsaCsr} (h : cxIsaExists s.cfg r = false) (insn : Insn) :
    s.cxIsaAccess insn r fn src rd = s.illegal insn := by
  unfold State.cxIsaAccess
  rw [h]
  rfl

/-- A CSR instruction at a CX-ISA CSR that the machine does not have is illegal at every level (R26). -/
theorem exec_cxIsa_absent {r : CxIsaCsr} (form : CsrForm s i a rd fn src) (hr : cxIsaCsr? a = some r)
    (absent : cxIsaExists s.cfg r = false) : exec i s = .next (s.illegal (encode s.cfg i)) := by
  rcases exec_cxIsa form hr with ⟨_, run⟩ | ⟨_, run⟩
  · exact run
  · rw [run, cxIsaAccess_absent absent]

end Accesses

/-- Settles O32: both CSRs exist with access control alone. -/
theorem noAccessControlTraps : Obligations.NoAccessControlTraps := by
  intro s i a rd fn src form ha off
  refine ⟨_, ?_, illegal_entered s _⟩
  rcases ha with rfl | rfl
  · exact exec_cxIsa_absent (r := .cxIndex) form (by decide) off
  · exact exec_cxIsa_absent (r := .mcxTable) form (by decide) off

/-- Settles O35: of the four branches of the dispatch only the one for `cxe` = 1 is left (R201). -/
theorem cxeTraps : Obligations.CxeTraps := by
  intro s i dest form version cxe
  have known : versionReserved (selVersion s.mcxSelector) = false := by
    rcases version with h | h <;> rw [h] <;> rfl
  obtain ⟨kind, func, d0, d1, run, _⟩ := exec_customOpForm form
  refine ⟨_, run, ?_⟩
  rcases customOp_cases s kind (encode s.cfg i) func d0 d1 dest with
    ⟨reserved, _⟩ | ⟨_, _, e⟩ | ⟨_, clear, _⟩ | ⟨_, clear, _⟩
  · exact absurd (known.symm.trans reserved) Bool.noConfusion
  · rw [e]
    exact illegal_entered s _
  · exact absurd (clear.symm.trans cxe) Bool.noConfusion
  · exact absurd (clear.symm.trans cxe) Bool.noConfusion

end Sys2Proof.Machine
end

/-! ### Instructions that complete with a result: `mcx_table` (R42), the CX CSRs of an extension (R211, R212, R262) -/

section
namespace Sys2Proof.Machine

section Completion

variable {s t : State}

theorem Unchanged.refl (s : State) : Unchanged s s [] [] [] [] :=
  ⟨fun _ _ => rfl, fun _ _ => rfl, fun _ _ _ _ => rfl, fun _ _ => rfl, rfl, rfl⟩

/-- An instruction that updates the state outside the integer registers, then writes its destination and goes on to the
next instruction. -/
theorem advanced_setX {csrs : List HartCsr} {ctxs : List (BitVec 8 × BitVec 8)} (h : Unchanged s t [] csrs ctxs [])
    (level : t.priv = s.priv) (pc : t.pc = s.pc) (rd : Reg) (v : Word) :
    Advanced s (t.setX rd v).advance [rd] csrs ctxs [] where
  regs := by
    intro j hj
    have other : j ≠ rd := fun e => hj (by simp [e])
    rw [xr_advance, xr_setX_other t other, h.regs j List.not_mem_nil]
  csrs := by
    intro r hr
    rw [← h.csrs r hr]
    cases r <;> simp [State.csr]
  ctxs := by
    intro cx c i hc
    rw [← h.ctxs cx c i hc]
    simp [State.ctx]
  bytes := by
    intro a ha
    rw [← h.bytes a ha]
    simp
  text := by simp [h.text]
  cfg := by simp [h.cfg]
  level := by simp [level]
  pc := by simp [h.cfg, pc]

/-- The destination holds the value written to it (R12, R22). -/
theorem holds_setX_advance (t : State) (rd : Reg) (v : Word) : (t.setX rd v).advance.holds rd v :=
  destHolds_answer t none (some rd) v rd rfl

/-- The destination holds a value of which its XLEN bits are written to it: bits above are no matter. -/
theorem holds_setX_norm (cfg : t.cfg = s.cfg) (rd : Reg) (v : Word) :
    (t.setX rd (norm s.cfg.xlen v)).advance.holds rd v := by
  have held := holds_setX_advance t rd (norm s.cfg.xlen v)
  simpa [State.holds, cfg] using held

/-- The context that stays selected after an answer is the one the answer finds there. -/
theorem selectedCtx_answer (h : t.mcxSelector = s.mcxSelector) (cx : ExtConfig) (f : Option CxFlag) (rd : Reg)
    (v : Word) : ((t.setFlag f).setX rd v).advance.selectedCtx cx =
      t.ctx cx (selCxuId s.mcxSelector) (selStateId s.mcxSelector) := by
  simp [State.selectedCtx, State.ctx, h]

end Completion

section Table

theorem csrNew_eq_accessed (fn : CsrFn) (old src : Word) : csrNew fn old src = accessed fn old src := by
  cases fn <;> rfl

/-- A value below `2^n` has no bit above its `n` low ones. -/
theorem keepLow_eq_self {n : Nat} {v : Word} (h : v.toNat < 2 ^ n) : keepLow n v = v := by
  ext k hk
  rw [keepLow, lowMask, BitVec.getElem_and, BitVec.getElem_eq_testBit_toNat (BitVec.ofNat 64 _), BitVec.toNat_ofNat,
    Nat.testBit_mod_two_pow, Nat.testBit_two_pow_sub_one]
  by_cases low : k < n
  · simp [low, hk]
  · have clear : v.toNat.testBit k = false :=
      Nat.testBit_lt_two_pow (h.trans_le (Nat.pow_le_pow_right Nat.two_pos (Nat.le_of_not_lt low)))
    simpa [low, BitVec.getElem_eq_testBit_toNat] using clear

variable {s : State} {rd : Reg} {fn : CsrFn} {src : Word}

theorem cxIsaAccess_read {r : CxIsaCsr} (present : cxIsaExists s.cfg r = true) (insn : Insn) :
    s.cxIsaAccess insn r .read src rd = (s.setX rd (s.readCxIsa r)).advance := by
  unfold State.cxIsaAccess
  rw [present]
  rfl

theorem cxIsaAccess_mcxTable (ac : s.cfg.accessControl = true) (writes : fn ≠ .read) (insn : Insn) :
    s.cxIsaAccess insn .mcxTable fn src rd =
      ((s.writeTable (csrNew fn (norm s.cfg.xlen s.mcxTable) src)).setX rd (norm s.cfg.xlen s.mcxTable)).advance := by
  unfold State.cxIsaAccess
  simp [cxIsaExists, ac, writes, State.readCxIsa]

/-- A write of `mcx_table` changes no other CSR, no register, no context and no byte of memory (R42, R173). -/
theorem writeTable_unchanged (s : State) (v : Word) : Unchanged s (s.writeTable v) [] [.mcxTable] [] [] where
  regs := fun _ _ => rfl
  csrs := by
    intro r hr
    cases r with
    | mcxTable => simp at hr
    | _ => rfl
  ctxs := fun _ _ _ _ => rfl
  bytes := fun _ _ => rfl
  text := rfl
  cfg := rfl

/-- Where all of `base_page` is implemented, a write of `mcx_table` clears bits 11:0 and no others (R42). -/
theorem tableBits_implemented {cfg : Config} (h : xlenBits cfg.xlen ≤ 12 + cfg.basePageBits) (v : Word) :
    tableBits cfg v = norm cfg.xlen v &&& ~~~0xFFF#64 := by
  unfold tableBits
  rw [keepLow_eq_self ((norm_lt _ _).trans_le (Nat.pow_le_pow_right Nat.two_pos h))]

/-- A CSR instruction at `mcx_table` at machine level is the access (R164). -/
theorem exec_mcxTable {i : Instr} (form : CsrForm s i 0xBC1 rd fn src) (level : s.priv = .machine) :
    exec i s = .next (s.cxIsaAccess (encode s.cfg i) .mcxTable fn src rd) := by
  have allowed : csrAllowed 0xBC1 fn s.priv := by
    rw [level]
    exact ⟨by decide, fun h => absurd h.2 (by decide)⟩
  rcases exec_cxIsa form (r := .mcxTable) (by decide) with ⟨denied, _⟩ | ⟨_, run⟩
  · exact absurd allowed denied
  · exact run

end Table

/-- Settles O29: the read and the write forms, each with the register and the table. -/
theorem mcxTableAccess : Obligations.McxTableAccess := by
  intro s i rd fn src v form level ac hv
  have run := exec_mcxTable form level
  by_cases reads : fn = .read
  · subst reads
    rw [cxIsaAccess_read (r := .mcxTable) ac] at run
    refine ⟨_, run, ?_, holds_setX_norm rfl rd _, by simp, fun writes => absurd rfl writes⟩
    have more := advanced_setX (.refl s) rfl rfl rd (s.readCxIsa .mcxTable)
    exact { more with csrs := fun r _ => more.csrs r List.not_mem_nil }
  · rw [cxIsaAccess_mcxTable ac reads, csrNew_eq_accessed] at run
    refine ⟨_, run, advanced_setX (writeTable_unchanged s _) rfl rfl rd _, holds_setX_norm rfl rd _, ?_,
      fun _ all => ?_⟩
    · rw [if_neg reads, hv]
      simp [tableBits]
    · rw [hv, ← tableBits_implemented all]
      simp

section Requests

variable {s : State} {cx : ExtConfig} {i : Instr} {a : CsrAddr} {rd : Reg} {fn : CsrFn} {src : Word}

/-- The request of a CX CSR access (R204). -/
def State.csrRequest (s : State) (insn : Insn) (a : CsrAddr) (fn : CsrFn) (src : Word) : CxuRequest where
  cxu := selCxuId s.mcxSelector
  state := selStateId s.mcxSelector
  insn := insn
  func := .csr fn
  data0 := src
  data1 := csrOperand a

theorem csrOfOperand_csrOperand (a : CsrAddr) : csrOfOperand (csrOperand a) = a := by
  simp [csrOfOperand, csrOperand, zextX]

/-- A custom CSR access under a version-1 selector is a request to the selected CXU (R201, R202). -/
theorem exec_csrForm_multiplex (form : CsrForm s i a rd fn src) (ha : isCustomCsr a = true)
    (hp : csrAllowed a fn s.priv) (hs : Selects s cx) :
    exec i s = .next (s.multiplex (s.csrRequest (encode s.cfg i) a fn src) (some rd)) := by
  rw [exec_csrForm form, csrCommon_custom _ _ _ ha hp]
  unfold State.customOp
  simp [hs.version, hs.cxe, versionReserved, State.csrRequest]

/-- A valid request to an extension whose context is neither off nor in reset is performed (R203, R206 to R208). -/
theorem decideOp_valid {r : CxuRequest} (hcx : cxuOf s.cfg r.cxu = some cx) (state : validState cx r.state = true)
    (active : cx.stateful = true → (s.ctx cx r.cxu r.state).inactive = false)
    (valid : validFunc s.cfg cx r.func r.data1 = true) :
    s.decideOp r = ((s.perform cx r).1, respFlag (s.perform cx r).2.1, (s.perform cx r).2.2) := by
  rcases decideOp_cases s r with ⟨none, _⟩ | ⟨cx', found, h⟩
  · exact absurd (none.symm.trans hcx) nofun
  cases found.symm.trans hcx
  rcases h with ⟨invalid, _⟩ | ⟨_, stateful, inactive, _⟩ | ⟨_, invalid, _⟩ | ⟨_, _, e⟩
  · exact absurd (invalid.symm.trans state) Bool.noConfusion
  · exact absurd ((active stateful).symm.trans inactive) Bool.noConfusion
  · exact absurd (invalid.symm.trans valid) Bool.noConfusion
  · exact e

/-- The answer of a CSR instruction at a valid CX CSR address, other than that of a mandatory CX CSR, on a context that is
neither off nor in reset: an identity CSR or the extension's own (R202, R211). -/
theorem exec_otherCsr (form : CsrForm s i a rd fn src) (ha : isCustomCsr a = true) (hp : csrAllowed a fn s.priv)
    (hs : Selects s cx) (active : cx.stateful = true → (s.selectedCtx cx).cs ≠ .off ∧ (s.selectedCtx cx).rst = false)
    (own : cx.stateful = true → stdCsr? a = none) (valid : validCsr s.cfg cx a = true) {v : Word} {st : CxResp}
    {t : State} (he : s.performOtherCsr cx (s.csrRequest (encode s.cfg i) a fn src) fn a = (v, st, t)) :
    exec i s = .next ((t.setFlag (respFlag st)).setX rd v).advance := by
  have performed : s.perform cx (s.csrRequest (encode s.cfg i) a fn src) = (v, st, t) := by
    change s.performCsr cx _ fn (csrOfOperand (csrOperand a)) = _
    rw [csrOfOperand_csrOperand, ← he]
    unfold State.performCsr
    split
    · next stateful => rw [own stateful]
    · rfl
  have decided := decideOp_valid (r := s.csrRequest (encode s.cfg i) a fn src) hs.cxu hs.state
    (fun stateful => by
      obtain ⟨on, idle⟩ := active stateful
      change (s.selectedCtx cx).inactive = false
      simp [Ctx.inactive, on, idle])
    (by
      change validCsr s.cfg cx (csrOfOperand (csrOperand a)) = true
      rw [csrOfOperand_csrOperand, valid])
  rw [exec_csrForm_multiplex form ha hp hs]
  unfold State.multiplex
  rw [decided, performed]
  rfl

/-- The mandatory CX CSRs are those at their four addresses (R51). -/
theorem stdCsr?_eq_none {a : CsrAddr} (h : a ∉ [(0x8FF : CsrAddr), 0x5FF, 0x5FE, 0x5FD]) : stdCsr? a = none := by
  simp only [List.mem_cons, List.not_mem_nil, or_false, not_or] at h
  obtain ⟨noError, noStatus, noIndex, noData⟩ := h
  exact (if_neg noError).trans ((if_neg noStatus).trans ((if_neg noIndex).trans (if_neg noData)))

/-- No identity CSR stands at an address outside `GUID_CSR_ADDR` (R262). -/
theorem guidCsr?_eq_none {cfg : Config} (h : cx.identity = true → ∀ g ∈ cfg.guidCsrs, g.addr ≠ a) :
    guidCsr? cfg cx a = none := by
  unfold guidCsr?
  split
  · next identity => exact List.find?_eq_none.mpr fun g hg => by simpa using h identity g hg
  · rfl

/-- Where the addresses are distinct, an identity CSR is found at its own (R262). -/
theorem guidCsr?_of_mem {cfg : Config} {g : GuidCsr} (hg : g ∈ cfg.guidCsrs) (identity : cx.identity = true)
    (distinct : (cfg.guidCsrs.map GuidCsr.addr).Nodup) : guidCsr? cfg cx g.addr = some g := by
  unfold guidCsr?
  rw [if_pos identity]
  cases found : cfg.guidCsrs.find? (fun g' => g'.addr == g.addr) with
  | none => simpa using List.find?_eq_none.mp found g hg
  | some g' =>
    have same : g'.addr = g.addr := by simpa using List.find?_some found
    exact congrArg some (List.inj_on_of_nodup_map distinct (List.mem_of_find?_eq_some found) hg same)

/-- An address of an extension's own CSRs is valid (R206). -/
theorem validCsr_of_own {cfg : Config} (h : a ∈ cx.validCsrs) : validCsr cfg cx a = true := by
  simp [validCsr, h]

/-! #### A stateful extension's own CSR -/

/-- The commit of a result replaces the context the request names and no other (R211). -/
theorem commitCtx_update (s : State) (cx : ExtConfig) (r : CxuRequest) (res : CxResult) :
    CtxUpdate s r.cxu r.state (s.commitCtx cx r res) := .set _

/-- The context after the commit of a result: state, error, and `dirty` when the extension says so or one of them
changed (R209, R211). -/
theorem ctx_commitCtx (s : State) (cx : ExtConfig) (r : CxuRequest) (res : CxResult) :
    (s.commitCtx cx r res).ctx cx r.cxu r.state = { s.ctx cx r.cxu r.state with
      st := res.st
      error := cx.errBits s.cfg.xlen res.err
      cs := if cx.saysModifies r.func r.data0 r.data1 (s.ctx cx r.cxu r.state).st (s.ctx cx r.cxu r.state).error = true ∨
          res.st ≠ (s.ctx cx r.cxu r.state).st ∨
          cx.errBits s.cfg.xlen res.err ≠ (s.ctx cx r.cxu r.state).error
        then .dirty else (s.ctx cx r.cxu r.state).cs } := by
  unfold State.commitCtx
  rw [ctx_setCtx_same]
  simp only [modifiesCtx, Bool.or_eq_true, decide_eq_true_eq, or_assoc]
  split <;> rfl

/-- An update of one context, with a flag set, changes nothing but that context and `cx_status`. -/
theorem CtxUpdate.unchanged {t : State} {c k : BitVec 8} (h : CtxUpdate s c k t) (f : Option CxFlag) :
    Unchanged s (t.setFlag f) [] [.cxStatus] [(c, k)] [] := by
  have kept := KeepsOthers.of_update h
  have hart := h.toHart_eq
  have mem : t.mem = s.mem := by cases h <;> rfl
  refine ⟨fun j _ => ?_, fun r hr => ?_, fun cx' c' k' hc => ?_, fun b _ => ?_, ?_, ?_⟩
  · rw [xr_setFlag]
    exact xr_congr (congrArg Hart.x hart) kept.cfg j
  · cases h <;> cases r with
    | cxStatus => simp at hr
    | _ => simp [State.csr]
  · rw [← kept.ctx cx' c' k' (fun e => hc (by simp [e]))]
    simp [State.ctx]
  · simp [mem]
  · simp [kept.text]
  · simp [kept.cfg]

/-- A stateful extension's own CSR, on an active context: the answer of the extension is committed (R209, R211). -/
theorem exec_statefulCsr (form : CsrForm s i a rd fn src) (ha : isCustomCsr a = true) (hp : csrAllowed a fn s.priv)
    (hs : SelectsActive s cx) (own : a ∈ cx.validCsrs) (std : a ∉ [(0x8FF : CsrAddr), 0x5FF, 0x5FE, 0x5FD])
    (guid : cx.identity = true → ∀ g ∈ s.cfg.guidCsrs, g.addr ≠ a) {res : CxResult}
    (hres : res = cx.csr a fn src (s.selectedCtx cx).st (s.selectedCtx cx).error) :
    exec i s = .next
      (((s.commitCtx cx (s.csrRequest (encode s.cfg i) a fn src) res).setFlag (respFlag res.status)).setX rd
        (norm s.cfg.xlen res.data)).advance := by
  refine exec_otherCsr form ha hp hs.toSelects (fun _ => ⟨hs.on, hs.idle⟩) (fun _ => stdCsr?_eq_none std)
    (validCsr_of_own own) ?_
  unfold State.performOtherCsr
  rw [guidCsr?_eq_none guid, hres]
  unfold State.performExtCsr
  rw [if_pos hs.stateful]
  rfl

/-! #### An identity CSR -/

/-- The addresses of the identity CSRs are read-only ones of machine level (R58, R164). -/
theorem identityAddress {p : Priv} (h : 0xFC0 ≤ a) (hp : csrAllowed a fn p) : fn = .read ∧ p = .machine := by
  have high : 0xFC0 ≤ a.toNat := h
  have bound := a.isLt
  have readOnly : a.extractLsb' 10 2 = 3#2 := by
    apply BitVec.eq_of_toNat_eq
    rw [field_toNat]
    simp
    omega
  have level : a.extractLsb' 8 2 = 3#2 := by
    apply BitVec.eq_of_toNat_eq
    rw [field_toNat]
    simp
    omega
  obtain ⟨reached, noWrite⟩ := hp
  refine ⟨by_contra fun writes => noWrite ⟨writes, readOnly⟩, ?_⟩
  rw [level] at reached
  cases p with
  | machine => rfl
  | user => exact absurd reached (by decide)
  | supervisor => exact absurd reached (by decide)

/-- No mandatory CX CSR has such an address (R51). -/
theorem stdCsr?_identityAddress (h : 0xFC0 ≤ a) : stdCsr? a = none := by
  apply stdCsr?_eq_none
  simp only [List.mem_cons, List.not_mem_nil, or_false, not_or]
  refine ⟨?_, ?_, ?_, ?_⟩ <;> (rintro rfl; exact absurd h (by decide))

/-- An identity CSR answers with its word of the identifier, and no flag (R262). -/
theorem exec_identityCsr {g : GuidCsr} (form : CsrForm s i g.addr rd fn src) (ha : isCustomCsr g.addr = true)
    (hp : csrAllowed g.addr fn s.priv) (hs : Selects s cx)
    (active : cx.stateful = true → (s.selectedCtx cx).cs ≠ .off ∧ (s.selectedCtx cx).rst = false)
    (hg : g ∈ s.cfg.guidCsrs) (identity : cx.identity = true) (high : 0xFC0 ≤ g.addr)
    (distinct : (s.cfg.guidCsrs.map GuidCsr.addr).Nodup) :
    exec i s = .next (s.setX rd (guidWord s.cfg.xlen cx g)).advance := by
  have found := guidCsr?_of_mem hg identity distinct
  refine exec_otherCsr (st := .ok) form ha hp hs active (fun _ => stdCsr?_identityAddress high)
    (by simp [validCsr, found]) ?_
  unfold State.performOtherCsr
  rw [found]

/-! #### A stateless extension's CSR -/

/-- The constant of a CSR of a stateless extension depends on neither access nor operand (R212). -/
theorem constCsr_data (cx : ExtConfig) (a : CsrAddr) (fn : CsrFn) (src : Word) :
    (cx.constCsr a fn src).1 = (cx.constCsr a .read 0).1 := by
  unfold ExtConfig.constCsr
  cases cx.kind <;> rfl

/-- A CSR of a stateless extension answers with its constant, and `OP` or no flag (R186, R212). -/
theorem exec_statelessCsr (form : CsrForm s i a rd fn src) (ha : isCustomCsr a = true) (hp : csrAllowed a fn s.priv)
    (hs : Selects s cx) (stateless : cx.stateful = false) (own : a ∈ cx.validCsrs)
    (guid : cx.identity = true → ∀ g ∈ s.cfg.guidCsrs, g.addr ≠ a) :
    exec i s = .next
      ((s.setFlag (respFlag (pureResp (cx.constCsr a fn src).2))).setX rd
        (norm s.cfg.xlen (cx.constCsr a fn src).1)).advance := by
  have vacuous : ∀ {p : Prop}, cx.stateful = true → p := fun stateful =>
    absurd (stateless.symm.trans stateful) Bool.noConfusion
  refine exec_otherCsr form ha hp hs vacuous vacuous (validCsr_of_own own) ?_
  unfold State.performOtherCsr
  rw [guidCsr?_eq_none guid]
  unfold State.performExtCsr
  rw [stateless]
  rfl

end Requests

/-- Settles O43: the three kinds of CSR, each from the state its instruction leads to. -/
theorem extensionCsrResult : Obligations.ExtensionCsrResult := by
  intro s i a rd fn src cx form ha hp
  refine ⟨fun res hs own std guid hres => ?_, fun g hg hs active identity addr high distinct => ?_,
    fun hs stateless own guid => ?_⟩
  · have run := exec_statefulCsr form ha hp hs own std guid hres
    have committed := commitCtx_update s cx (s.csrRequest (encode s.cfg i) a fn src) res
    refine ⟨_, run, advanced_setX (committed.unchanged _) (by simp [State.commitCtx]) (by simp [State.commitCtx]) rd _,
      holds_setX_norm (by simp [State.commitCtx]) rd _, ?_, ?_⟩
    · rw [advance_cxStatus, setX_cxStatus]
      cases res.status <;> rfl
    · have selector := congrArg Hart.mcxSelector committed.toHart_eq
      exact (selectedCtx_answer selector cx _ rd _).trans (ctx_commitCtx s cx _ res)
  · subst addr
    obtain ⟨reads, level⟩ := identityAddress high hp
    exact ⟨reads, level, _, exec_identityCsr form ha hp hs active hg identity high distinct,
      advanced_setX (.refl s) rfl rfl rd _, holds_setX_norm rfl rd _⟩
  · refine ⟨_, exec_statelessCsr form ha hp hs stateless own guid, advanced_answer s _ (some rd) _, ?_, ?_⟩
    · rw [constCsr_data]
      exact holds_setX_norm (setFlag_cfg s _) rd _
    · rw [advance_cxStatus, setX_cxStatus, setFlag_pureResp_cxStatus]

end Sys2Proof.Machine
end

/-! ### The decoder undoes the encoder (R111, R115, R116, R281) -/

section
namespace Sys2Proof

section Opcodes

variable {cfg : Config} {w : Insn}

/-! #### The decoder of each major opcode (R110, R116) -/

theorem decodeWord_custom0 (h : Field.opcode w = 0b0001011#7) : decodeWord cfg w = .ok (decodeCustom0 cfg w) := by
  simp [decodeWord, h]

theorem decodeWord_custom1 (h : Field.opcode w = 0b0101011#7) :
    decodeWord cfg w = .ok (.cxImm (Field.funct3 w) (Field.rd w) (Field.rs1 w) (Field.immI w)) := by
  simp [decodeWord, h]

theorem decodeWord_custom2 (h : Field.opcode w = 0b1011011#7) : decodeWord cfg w = .ok (decodeCustom2 w) := by
  simp [decodeWord, h]

theorem decodeWord_custom3 (h : Field.opcode w = 0b1111011#7) :
    decodeWord cfg w = .ok (.custom3 (Field.upper25 w)) := by
  simp [decodeWord, h]

theorem decodeWord_system (h : Field.opcode w = 0b1110011#7) : decodeWord cfg w = decodeSystem w := by
  simp [decodeWord, h]

theorem decodeWord_lui (h : Field.opcode w = 0b0110111#7) :
    decodeWord cfg w = .ok (.lui (Field.rd w) (Field.immU w)) := by
  simp [decodeWord, h]

theorem decodeWord_opImm (h : Field.opcode w = 0b0010011#7) : decodeWord cfg w = decodeOpImm w := by
  simp [decodeWord, h]

theorem decodeWord_op (h : Field.opcode w = 0b0110011#7) : decodeWord cfg w = decodeOp w := by
  simp [decodeWord, h]

theorem decodeWord_load (h : Field.opcode w = 0b0000011#7) : decodeWord cfg w = decodeLoad w := by
  simp [decodeWord, h]

theorem decodeWord_store (h : Field.opcode w = 0b0100011#7) : decodeWord cfg w = decodeStore w := by
  simp [decodeWord, h]

theorem decodeWord_branch (h : Field.opcode w = 0b1100011#7) : decodeWord cfg w = decodeBranch w := by
  simp [decodeWord, h]

theorem decodeWord_jal (h : Field.opcode w = 0b1101111#7) :
    decodeWord cfg w = .ok (.jal (Field.rd w) (Field.offJ w)) := by
  simp [decodeWord, h]

end Opcodes

/-- A custom-0 word decodes by its CF_ID, to an instruction with its three registers (R123, R281). -/
theorem decodeWord_cf0 (cfg : Config) (f : CfId) (rd rs1 rs2 : Reg) :
    decodeWord cfg (Layout.cf f rs2 rs1 rd 0b0001011#7) = .ok
      (if f = cfg.cfReadStatus then .cxReadStatus rd rs1 rs2
      else if f = cfg.cfWriteStatus then .cxWriteStatus rd rs1 rs2
      else if f = cfg.cfReadState then .cxReadState rd rs1 rs2
      else if f = cfg.cfWriteState then .cxWriteState rd rs1 rs2
      else .cxReg f rd rs1 rs2) := by
  obtain ⟨op, mid, first, second, id⟩ := Layout.fields_cf f rs2 rs1 rd 0b0001011#7
  rw [decodeWord_custom0 op, decodeCustom0]
  simp only [mid, first, second, id]

/-- The four standard CF_IDs are pairwise distinct (R281). -/
theorem standardCfs_distinct {cfg : Config} (h : cfg.standardCfsDistinct = true) :
    cfg.cfWriteStatus ≠ cfg.cfReadStatus ∧
    (cfg.cfReadState ≠ cfg.cfReadStatus ∧ cfg.cfReadState ≠ cfg.cfWriteStatus) ∧
    (cfg.cfWriteState ≠ cfg.cfReadStatus ∧ cfg.cfWriteState ≠ cfg.cfWriteStatus ∧
      cfg.cfWriteState ≠ cfg.cfReadState) := by
  simp only [Config.standardCfsDistinct, decide_eq_true_eq, List.nodup_cons, List.mem_cons, List.not_mem_nil,
    or_false, not_or] at h
  obtain ⟨⟨rsWs, rsRd, rsWr⟩, ⟨wsRd, wsWr⟩, rdWr, _⟩ := h
  exact ⟨Ne.symm rsWs, ⟨Ne.symm rsRd, Ne.symm wsRd⟩, Ne.symm rsWr, Ne.symm wsWr, Ne.symm rdWr⟩

/-- The word of a well-formed instruction decodes to it: by its layout, the decoder of its major opcode finds every
field. -/
theorem decodeWord_encode {cfg : Config} {i : Instr} (wf : i.wellFormed cfg = true) :
    decodeWord cfg (encode cfg i) = .ok i := by
  cases i with
  | cxReg f rd rs1 rs2 =>
    simp only [Instr.wellFormed, Config.isStandardCf, Bool.not_eq_true', Bool.or_eq_false_iff,
      beq_eq_false_iff_ne] at wf
    obtain ⟨⟨⟨notRs, notWs⟩, notRd⟩, notWr⟩ := wf
    rw [encode, decodeWord_cf0, if_neg notRs, if_neg notWs, if_neg notRd, if_neg notWr]
  | cxReadStatus rd rs1 rs2 => rw [encode, decodeWord_cf0, if_pos rfl]
  | cxWriteStatus rd rs1 rs2 =>
    obtain ⟨notRs, _⟩ := standardCfs_distinct wf
    rw [encode, decodeWord_cf0, if_neg notRs, if_pos rfl]
  | cxReadState rd rs1 rs2 =>
    obtain ⟨_, ⟨notRs, notWs⟩, _⟩ := standardCfs_distinct wf
    rw [encode, decodeWord_cf0, if_neg notRs, if_neg notWs, if_pos rfl]
  | cxWriteState rd rs1 rs2 =>
    obtain ⟨_, _, notRs, notWs, notRd⟩ := standardCfs_distinct wf
    rw [encode, decodeWord_cf0, if_neg notRs, if_neg notWs, if_neg notRd, if_pos rfl]
  | cxImm => simp [encode, decodeWord_custom1, Layout.fields_i]
  | cxFlex => simp [encode, decodeWord_custom2, decodeCustom2, Layout.fields_cf]
  | cxFlex25 k =>
    have long : k.extractLsb' 0 5 ≠ 0#5 := by simpa [Instr.wellFormed] using wf
    simp [encode, decodeWord_custom2, decodeCustom2, fields_upper25, long]
  | custom3 => simp [encode, decodeWord_custom3, fields_upper25]
  | csrrw | csrrs | csrrc | csrrwi | csrrsi | csrrci =>
    simp [encode, decodeWord_system, decodeSystem, Layout.fields_i]
  | lui => simp [encode, decodeWord_lui, Layout.fields_u]
  | addi | andi => simp [encode, decodeWord_opImm, decodeOpImm, Layout.fields_i]
  | slli | srli => simp [encode, decodeWord_opImm, decodeOpImm, Layout.fields_sh]
  | add => simp [encode, decodeWord_op, decodeOp, Layout.fields_r]
  | lw | ld => simp [encode, decodeWord_load, decodeLoad, Layout.fields_i]
  | sw | sd => simp [encode, decodeWord_store, decodeStore, Layout.fields_s]
  | beq | bne => simp [encode, decodeWord_branch, decodeBranch, Layout.fields_b]
  | jal => simp [encode, decodeWord_jal, Layout.fields_j]
  | ecall =>
    have f3 : Field.funct3 0x00000073#32 = 0 := by decide
    rw [encode, decodeWord_system (by decide)]
    simp [decodeSystem, f3]
  | mret =>
    have f3 : Field.funct3 0x30200073#32 = 0 := by decide
    rw [encode, decodeWord_system (by decide)]
    simp [decodeSystem, f3]

/-- Settles O1: the bytes of a word are the word again, and the word decodes to its instruction. -/
theorem decodeOfEncode : Obligations.DecodeOfEncode := by
  intro cfg i wf
  rw [decode_bytesOfWord, decodeWord_encode wf]

end Sys2Proof
end

/-! ### A step runs the decoded instruction (R249, R301) -/

section
namespace Sys2Proof.Machine

/-- Resets that advance are seen by no fetch (R249, R301). -/
theorem fetch_tick (s : State) : s.tick.fetchAllowed = s.fetchAllowed ∧ s.tick.fetchBytes = s.fetchBytes :=
  ⟨rfl, rfl⟩

/-- Where the fetch is allowed and the bytes decode, the step is the instruction on the ticked state (R301). -/
theorem step_of_decode {s : State} {i : Instr} (allowed : s.fetchAllowed = true)
    (decodes : decode s.cfg s.fetchBytes = .ok i) : step s = exec i s.tick := by
  obtain ⟨sameAllowed, sameBytes⟩ := fetch_tick s
  unfold step State.hartStep
  rw [sameAllowed, if_pos allowed, sameBytes, tick_cfg, decodes]

/-- Settles O5: what a tick leaves alone holds by computation. -/
theorem stepRunsDecoded : Obligations.StepRunsDecoded := by
  intro s i allowed decodes
  exact ⟨step_of_decode allowed decodes, rfl, rfl, rfl, rfl, rfl, rfl⟩

end Sys2Proof.Machine
end

/-! ### Loads and stores: the bytes at an address (R86, R311 to R314) -/

section
namespace Sys2Proof.Machine

section Addresses

/-- Sums of XLEN-bit values are taken modulo `2^XLEN` once (R24). -/
theorem norm_add_norm (x : Xlen) (v w : Word) : norm x (v + norm x w) = norm x (v + w) := by
  apply BitVec.eq_of_toNat_eq
  cases x with
  | rv32 => simp only [norm_toNat, BitVec.toNat_add, xlenBits]; omega
  | rv64 => rfl

variable (s : State)

/-- The address of a load or store (R311, R313). -/
theorem effAddr_eq (rs1 : Reg) (imm : BitVec 12) :
    s.effAddr rs1 imm = norm s.cfg.xlen (s.xr rs1 + imm.signExtend 64) :=
  norm_add_norm _ _ _

/-- An aligned address of the address space has all its bytes inside the address space (R318). -/
theorem effAddr_room {n : Nat} (hn : n ∣ 2 ^ xlenBits s.cfg.xlen) (rs1 : Reg) (imm : BitVec 12)
    (aligned : (s.effAddr rs1 imm).toNat % n = 0) :
    (s.effAddr rs1 imm).toNat + n ≤ 2 ^ xlenBits s.cfg.xlen := by
  have inside : (s.effAddr rs1 imm).toNat < 2 ^ xlenBits s.cfg.xlen := norm_lt _ _
  refine Nat.le_of_lt_add_of_dvd (Nat.add_lt_add_right inside n) ?_ hn
  exact (Nat.dvd_of_mod_eq_zero aligned).add (Nat.dvd_refl n)

variable {s} {a : Word}

/-- Below the end of the address space, the address `k` bytes above `a` is no sum modulo `2^XLEN` but a sum. -/
theorem addrKey_eq {k : Nat} (room : a.toNat + k < 2 ^ xlenBits s.cfg.xlen) : s.addrKey a k = a.toNat + k := by
  unfold State.addrKey
  have space : 2 ^ xlenBits s.cfg.xlen ≤ 2 ^ 64 := by cases s.cfg.xlen <;> decide
  rw [norm_toNat, BitVec.toNat_add, BitVec.toNat_ofNat, Nat.mod_eq_of_lt (a := k) (by omega),
    Nat.mod_eq_of_lt (a := a.toNat + k) (by omega), Nat.mod_eq_of_lt room]

/-- Offsets of an address add up. -/
theorem addrKey_add (s : State) (a : Word) (j k : Nat) :
    s.addrKey (a + BitVec.ofNat 64 j) k = s.addrKey a (j + k) := by
  unfold State.addrKey
  rw [BitVec.add_assoc, BitVec.ofNat_add]

end Addresses

section Loads

variable (s : State) (a : Word)

/-- The word at an address as a number (R86). -/
theorem read32_toNat : (s.read32 a).toNat =
    (((s.byteAt a 3).toNat * 256 + (s.byteAt a 2).toNat) * 256 + (s.byteAt a 1).toNat) * 256
      + (s.byteAt a 0).toNat := by
  refine (append_toNat (m := 24) (n := 8) _ _).trans ?_
  rw [append_toNat (m := 16) (n := 8), append_toNat (m := 8) (n := 8)]
  norm_num

/-- The word at an address holds its bytes, lowest address in the lowest bits (R86). -/
theorem read32_byte {k : Nat} (hk : k < 4) : (s.read32 a).extractLsb' (8 * k) 8 = s.byteAt a k := by
  have := (s.byteAt a 0).isLt; have := (s.byteAt a 1).isLt
  have := (s.byteAt a 2).isLt; have := (s.byteAt a 3).isLt
  apply BitVec.eq_of_toNat_eq
  rw [field_toNat, read32_toNat]
  interval_cases k <;> omega

/-- The doubleword at an address holds its bytes, lowest address in the lowest bits (R86). -/
theorem read64_byte {k : Nat} (hk : k < 8) : (s.read64 a).extractLsb' (8 * k) 8 = s.byteAt a k := by
  unfold State.read64
  by_cases low : k < 4
  · rw [BitVec.extractLsb'_append_eq_of_add_le (by omega), read32_byte s a low]
  · have upper : 8 * k - 32 = 8 * (k - 4) := by omega
    have offset : 4 + (k - 4) = k := by omega
    rw [BitVec.extractLsb'_append_eq_of_le (by omega), upper, read32_byte s (a + 4) (by omega)]
    unfold State.byteAt
    rw [show (4 : Word) = BitVec.ofNat 64 4 from rfl, addrKey_add, offset]

variable {s a}

/-- Below the end of the address space, the byte `k` above `a` is the byte at the sum. -/
theorem byteAt_eq {k : Nat} (room : a.toNat + k < 2 ^ xlenBits s.cfg.xlen) :
    s.byteAt a k = Memory.read s.mem (a.toNat + k) := by
  rw [State.byteAt, addrKey_eq room]

/-- The word at an address of the address space is the four bytes there (R86). -/
theorem read32_eq (room : a.toNat + 4 ≤ 2 ^ xlenBits s.cfg.xlen) :
    s.read32 a = Memory.read s.mem (a.toNat + 3) ++ Memory.read s.mem (a.toNat + 2) ++
      Memory.read s.mem (a.toNat + 1) ++ Memory.read s.mem a.toNat := by
  have lowest : s.byteAt a 0 = Memory.read s.mem a.toNat := by
    rw [byteAt_eq (by omega), Nat.add_zero]
  unfold State.read32
  rw [lowest, byteAt_eq (by omega), byteAt_eq (by omega), byteAt_eq (by omega)]

/-- An aligned load that protection allows writes its register (R311, R318). -/
theorem loadTo_allowed {n : Nat} (onBoundary : a.toNat % n = 0) (allowed : memCheck s.cfg s.priv a n .load = .allowed)
    (rd : Reg) (v : Word) : s.loadTo rd a n v = (s.setX rd v).advance := by
  have isAligned : aligned a n = true := beq_iff_eq.mpr onBoundary
  unfold State.loadTo
  rw [isAligned, allowed]
  rfl

end Loads

section Stores

variable {s : State} {a : Word}

/-- An aligned store that protection allows goes on from the state it stored (R313, R318). -/
theorem storeTo_allowed {n : Nat} (onBoundary : a.toNat % n = 0)
    (allowed : memCheck s.cfg s.priv a n .store = .allowed) (stored : State) :
    s.storeTo a n stored = stored.advance := by
  have isAligned : aligned a n = true := beq_iff_eq.mpr onBoundary
  unfold State.storeTo
  rw [isAligned, allowed]
  rfl

/-- A stored word is read back byte by byte, lowest byte at the lowest address (R86, R313). -/
theorem read_write32 (room : a.toNat + 4 ≤ 2 ^ xlenBits s.cfg.xlen) (v : BitVec 32) {k : Nat} (hk : k < 4) :
    Memory.read (s.write32 a v).mem (a.toNat + k) = v.extractLsb' (8 * k) 8 := by
  have key : ∀ j, j < 4 → (norm s.cfg.xlen (a + BitVec.ofNat 64 j)).toNat = a.toNat + j :=
    fun j hj => addrKey_eq (by omega)
  simp only [State.write32, setByte_mem, Memory.read_write, State.addrKey, setByte_cfg, key 0 (by omega),
    key 1 (by omega), key 2 (by omega), key 3 (by omega), Nat.add_left_cancel_iff]
  interval_cases k <;> rfl

/-- A word stored in the address space touches its four bytes alone (R313). -/
theorem read_write32_outside (room : a.toNat + 4 ≤ 2 ^ xlenBits s.cfg.xlen) (v : BitVec 32) {b : Nat}
    (outside : b < a.toNat ∨ a.toNat + 4 ≤ b) : Memory.read (s.write32 a v).mem b = Memory.read s.mem b := by
  refine read_write32_other s a v fun i hi => ?_
  rw [addrKey_eq (by omega)]
  omega

/-- The upper half of a doubleword stands four bytes above the lower. -/
theorem upperHalf_toNat (room : a.toNat + 8 ≤ 2 ^ xlenBits s.cfg.xlen) : (a + 4).toNat = a.toNat + 4 := by
  have space : 2 ^ xlenBits s.cfg.xlen ≤ 2 ^ 64 := by cases s.cfg.xlen <;> decide
  have four : (4 : Word).toNat = 4 := rfl
  rw [BitVec.toNat_add, four, Nat.mod_eq_of_lt (by omega)]

/-- A field of a field of a word is a field of the word. -/
theorem extractLsb'_extractLsb' {n : Nat} (v : BitVec n) {i j k l : Nat} (h : j + l ≤ k) :
    (v.extractLsb' i k).extractLsb' j l = v.extractLsb' (i + j) l := by
  apply BitVec.eq_of_getLsbD_eq
  intro b hb
  have inner : j + b < k := by omega
  simp [hb, inner, Nat.add_assoc]

/-- A stored doubleword is read back byte by byte, lowest byte at the lowest address (R86, R314). -/
theorem read_write64 (room : a.toNat + 8 ≤ 2 ^ xlenBits s.cfg.xlen) (v : Word) {k : Nat} (hk : k < 8) :
    Memory.read (s.write64 a v).mem (a.toNat + k) = v.extractLsb' (8 * k) 8 := by
  have upper := upperHalf_toNat room
  have roomUpper : (a + 4).toNat + 4 ≤ 2 ^ xlenBits (s.write32 a (v.extractLsb' 0 32)).cfg.xlen := by
    rw [write32_cfg]
    omega
  unfold State.write64
  by_cases low : k < 4
  · rw [read_write32_outside roomUpper _ (by omega), read_write32 (by omega) _ low,
      BitVec.extractLsb'_extractLsb'_of_le (by omega)]
  · obtain ⟨j, rfl⟩ : ∃ j, k = 4 + j := ⟨k - 4, by omega⟩
    rw [← Nat.add_assoc, ← upper, read_write32 roomUpper _ (by omega), extractLsb'_extractLsb' v (by omega),
      Nat.mul_add]

/-- A doubleword stored in the address space touches its eight bytes alone (R314). -/
theorem read_write64_outside (room : a.toNat + 8 ≤ 2 ^ xlenBits s.cfg.xlen) (v : Word) {b : Nat}
    (outside : b < a.toNat ∨ a.toNat + 8 ≤ b) : Memory.read (s.write64 a v).mem b = Memory.read s.mem b := by
  have upper := upperHalf_toNat room
  unfold State.write64
  rw [read_write32_outside (by rw [write32_cfg]; omega) _ (by omega), read_write32_outside (by omega) _ (by omega)]

/-- A store is to memory, not to the hart (R313, R314). -/
theorem write32_toHart (a : Word) (v : BitVec 32) : (s.write32 a v).toHart = s.toHart := rfl

theorem write64_toHart (a v : Word) : (s.write64 a v).toHart = s.toHart :=
  (write32_toHart (a + 4) _).trans (write32_toHart a _)

/-- The CSRs of the hart are read from the hart. -/
theorem csr_congr {t : State} (hart : t.toHart = s.toHart) (r : HartCsr) : t.csr r = s.csr r := by
  unfold State.csr
  rw [hart]

theorem csr_advance (t : State) (r : HartCsr) : t.advance.csr r = t.csr r := by cases r <;> rfl

/-- An instruction that stores `n` bytes from `a` on and goes on to the next instruction. -/
theorem advanced_store {t : State} {n : Nat} (hart : t.toHart = s.toHart) (cfg : t.cfg = s.cfg)
    (text : t.text = s.text) (ctxs : t.ctxs = s.ctxs)
    (outside : ∀ b, b < a.toNat ∨ a.toNat + n ≤ b → Memory.read t.mem b = Memory.read s.mem b) :
    Advanced s t.advance [] [] [] ((List.range n).map (a.toNat + ·)) where
  regs := fun j _ => xr_congr (congrArg Hart.x hart) cfg j
  csrs := fun r _ => (csr_advance t r).trans (csr_congr hart r)
  ctxs := by
    intro cx c i _
    unfold State.ctx
    rw [advance_ctxs, ctxs]
  bytes := by
    intro b hb
    refine outside b ?_
    by_contra inside
    exact hb (List.mem_map.mpr ⟨b - a.toNat, List.mem_range.mpr (by omega), by omega⟩)
  text := text
  cfg := cfg
  level := (advance_priv t).trans (congrArg Hart.priv hart)
  pc := by rw [advance_pc, cfg, congrArg Hart.pc hart]

end Stores

section Alignment

variable (s : State) (rs1 : Reg) (imm : BitVec 12)

/-- The four bytes of an aligned word are in the address space. -/
theorem effAddr_room4 (onBoundary : (s.effAddr rs1 imm).toNat % 4 = 0) :
    (s.effAddr rs1 imm).toNat + 4 ≤ 2 ^ xlenBits s.cfg.xlen :=
  effAddr_room s (by cases s.cfg.xlen <;> decide) rs1 imm onBoundary

/-- The eight bytes of an aligned doubleword are in the address space. -/
theorem effAddr_room8 (onBoundary : (s.effAddr rs1 imm).toNat % 8 = 0) :
    (s.effAddr rs1 imm).toNat + 8 ≤ 2 ^ xlenBits s.cfg.xlen :=
  effAddr_room s (by cases s.cfg.xlen <;> decide) rs1 imm onBoundary

end Alignment

section Instructions

theorem exec_lw (s : State) (rd rs1 : Reg) (imm : BitVec 12) : exec (.lw rd rs1 imm) s =
    .next (s.loadTo rd (s.effAddr rs1 imm) 4 (sextX s.cfg.xlen (s.read32 (s.effAddr rs1 imm)))) := rfl

theorem exec_sw (s : State) (rs1 rs2 : Reg) (imm : BitVec 12) : exec (.sw rs1 rs2 imm) s =
    .next (s.storeTo (s.effAddr rs1 imm) 4 (s.write32 (s.effAddr rs1 imm) ((s.xr rs2).setWidth 32))) := rfl

variable {s : State} (wide : s.cfg.xlen = .rv64)
include wide

/-- Where XLEN = 64, `ld` is a load (R312). -/
theorem exec_ld_wide (rd rs1 : Reg) (imm : BitVec 12) : exec (.ld rd rs1 imm) s =
    .next (s.loadTo rd (s.effAddr rs1 imm) 8 (s.read64 (s.effAddr rs1 imm))) := by
  change execLd rd rs1 imm s = _
  unfold execLd
  rw [wide]

/-- Where XLEN = 64, `sd` is a store (R314). -/
theorem exec_sd_wide (rs1 rs2 : Reg) (imm : BitVec 12) : exec (.sd rs1 rs2 imm) s =
    .next (s.storeTo (s.effAddr rs1 imm) 8 (s.write64 (s.effAddr rs1 imm) (s.xr rs2))) := by
  change execSd rs1 rs2 imm s = _
  unfold execSd
  rw [wide]

end Instructions

/-- Settles O17: the aligned address has room for its bytes, so each is read at its sum. -/
theorem loadResults : Obligations.LoadResults := by
  intro s rd rs1 imm
  refine ⟨effAddr_eq s rs1 imm, fun onBoundary allowed => ?_, fun wide onBoundary allowed => ?_⟩
  · have room := effAddr_room4 s rs1 imm onBoundary
    have run := exec_lw s rd rs1 imm
    rw [loadTo_allowed onBoundary allowed] at run
    refine ⟨_, run, advanced_setX (.refl s) rfl rfl rd _, ?_⟩
    rw [← read32_eq room]
    exact holds_setX_norm rfl rd _
  · have room := effAddr_room8 s rs1 imm onBoundary
    have run := exec_ld_wide wide rd rs1 imm
    rw [loadTo_allowed onBoundary allowed] at run
    refine ⟨_, run, advanced_setX (.refl s) rfl rfl rd _, fun written k hk => ?_⟩
    rw [xr_advance, xr_setX_same s written, wide, norm_rv64, read64_byte s _ hk, byteAt_eq (by omega)]

/-- Settles O18: the aligned address has room for its bytes, so each is written at its sum. -/
theorem storeResults : Obligations.StoreResults := by
  intro s rs1 rs2 imm
  refine ⟨effAddr_eq s rs1 imm, fun onBoundary allowed => ?_, fun wide onBoundary allowed => ?_⟩
  · have room := effAddr_room4 s rs1 imm onBoundary
    have run := exec_sw s rs1 rs2 imm
    rw [storeTo_allowed onBoundary allowed] at run
    refine ⟨_, run, advanced_store (write32_toHart _ _) (by simp) (by simp) (by simp)
      fun b => read_write32_outside room _, fun k hk => ?_⟩
    rw [advance_mem, read_write32 room _ hk, BitVec.extractLsb'_setWidth_of_le (by omega)]
  · have room := effAddr_room8 s rs1 imm onBoundary
    have run := exec_sd_wide wide rs1 rs2 imm
    rw [storeTo_allowed onBoundary allowed] at run
    refine ⟨_, run, advanced_store (write64_toHart _ _) (by simp) (by simp) (by simp)
      fun b => read_write64_outside room _, fun k hk => ?_⟩
    rw [advance_mem, read_write64 room _ hk]

end Sys2Proof.Machine
end

/-! ### `cx_index` and its implied load of the selector (R83, R84, R174, R175) -/

section
namespace Sys2Proof.Machine

/-- The entry of index `k` stands `4*k` bytes above `mcx_table` (R81, R83). -/
theorem entryAddr_eq (s : State) (k : BitVec 10) :
    s.entryAddr k = norm s.cfg.xlen (s.mcxTable + BitVec.ofNat 64 (4 * k.toNat)) := by
  have offset : (k ++ 0#2).setWidth 64 = BitVec.ofNat 64 (4 * k.toNat) := by
    apply BitVec.eq_of_toNat_eq
    rw [BitVec.toNat_setWidth, append_toNat, BitVec.toNat_ofNat, BitVec.toNat_ofNat]
    omega
  rw [State.entryAddr, offset]

/-- The reserved versions are 2 to 7 (R31). -/
theorem versionReserved_iff (v : BitVec 3) : versionReserved v = true ↔ 2 ≤ v.toNat := by
  revert v
  decide

/-- A write of the selector sets `IV` where the written version is reserved (R171). -/
theorem writeSelector_cxStatus (s : State) (v : BitVec 32) :
    (s.writeSelector v).cxStatus =
      if 2 ≤ (v.extractLsb' 29 3).toNat then s.cxStatus ||| 1#32 else s.cxStatus := by
  have reserved := versionReserved_iff (selVersion v)
  rw [writeSelector_spec]
  exact if_congr reserved rfl rfl

section IndexWrite

variable {s : State} {rd : Reg} {fn : CsrFn} {src : Word}

/-- A write of `cx_index` whose implied load is allowed: the index, then the selector loaded (R175). -/
def State.indexed (s : State) (k : BitVec 10) : State :=
  { s with cxIndex := k.setWidth 32 }.writeSelector (s.read32 (s.entryAddr k))

theorem writeIndex_allowed {v : Word}
    (allowed : memCheck s.cfg (cxidxPriv s.cfg s.priv) (s.entryAddr (indexOf v)) 4 .load = .allowed) :
    s.writeIndex v = .ok (s.indexed (indexOf v)) := by
  rcases writeIndex_cases s v with ⟨e, _⟩ | ⟨_, _, _, refused⟩
  · exact e
  · exact absurd allowed refused

/-- Such a write changes `cx_index`, `mcx_selector` and `cx_status` alone (R175). -/
theorem indexed_unchanged (s : State) (k : BitVec 10) :
    Unchanged s (s.indexed k) [] [.cxIndex, .mcxSelector, .cxStatus] [] [] where
  regs := fun j _ => xr_congr (writeSelector_x _ _) (writeSelector_cfg _ _) j
  csrs := by
    intro r hr
    cases r with
    | cxIndex | mcxSelector | cxStatus => simp at hr
    | _ => simp [State.csr, State.indexed]
  ctxs := by
    intro cx c i _
    simp [State.ctx, State.indexed]
  bytes := by
    intro b _
    simp [State.indexed]
  text := writeSelector_text _ _
  cfg := writeSelector_cfg _ _

/-- The address of `cx_index` passes the checks at every level, for every access (R26, R164). -/
theorem csrAllowed_cxIndex (fn : CsrFn) (p : Priv) : csrAllowed 0x800 fn p :=
  ⟨by cases p <;> decide, fun h => absurd h.2 (by decide)⟩

/-- A CSR instruction at `cx_index` is the access, at every level (R164, R176). -/
theorem exec_cxIndex {i : Instr} (form : CsrForm s i 0x800 rd fn src) :
    exec i s = .next (s.cxIsaAccess (encode s.cfg i) .cxIndex fn src rd) := by
  rcases exec_cxIsa form (r := .cxIndex) (by decide) with ⟨denied, _⟩ | ⟨_, run⟩
  · exact absurd (csrAllowed_cxIndex fn s.priv) denied
  · exact run

/-- A writing access whose implied load is allowed: the index and the selector, then `x[rd]` and `pc` (R175, R176). -/
theorem cxIsaAccess_cxIndex {k : BitVec 10} (ac : s.cfg.accessControl = true) (writes : fn ≠ .read)
    (hk : k = (accessed fn (zextX s.cxIndex) src).extractLsb' 0 10)
    (allowed : memCheck s.cfg (cxidxPriv s.cfg s.priv) (s.entryAddr k) 4 .load = .allowed) (insn : Insn) :
    s.cxIsaAccess insn .cxIndex fn src rd = ((s.indexed k).setX rd (zextX s.cxIndex)).advance := by
  have index : k = indexOf (csrNew fn (zextX s.cxIndex) src) := by rw [csrNew_eq_accessed, hk, indexOf]
  subst index
  unfold State.cxIsaAccess
  simp [cxIsaExists, ac, writes, State.readCxIsa, writeIndex_allowed allowed]

end IndexWrite

/-- Settles O30: the read forms change `x[rd]` alone, the write forms run the implied load. -/
theorem cxIndexAccess : Obligations.CxIndexAccess := by
  intro s i rd fn src k form ac hk
  have run := exec_cxIndex form
  refine ⟨fun reads => ?_, fun writes allowed => ?_⟩
  · subst reads
    rw [cxIsaAccess_read (r := .cxIndex) ac] at run
    exact ⟨_, run, advanced_setX (.refl s) rfl rfl rd _, holds_setX_advance s rd _⟩
  · rw [cxIsaAccess_cxIndex ac writes hk allowed] at run
    refine ⟨_, run, advanced_setX (indexed_unchanged s k) (writeSelector_priv _ _) (writeSelector_pc _ _) rd _,
      holds_setX_advance _ rd _, ?_, entryAddr_eq s k, ?_, ?_⟩
    · rw [advance_cxIndex, setX_cxIndex, State.indexed, writeSelector_cxIndex]
    · rw [advance_mcxSelector, setX_mcxSelector, State.indexed, writeSelector_mcxSelector, selectorBits]
    · rw [advance_cxStatus, setX_cxStatus, State.indexed, writeSelector_cxStatus]

end Sys2Proof.Machine
end

/-! ### The encoder undoes the decoder (R110, R111, R116, R322) -/

section
namespace Sys2Proof

/-! #### Laying out the fields of a word gives the word back (R111, R305 to R317)

Each layout takes the fixed fields of its instructions as equations about the word, as the decoder has tested them. -/

/-- Two concatenations of the same widths are one word only where both parts are the same. -/
theorem append_parts_eq {m n : Nat} {a a' : BitVec m} {b b' : BitVec n} (h : a ++ b = a' ++ b') :
    a = a' ∧ b = b' := by
  have high := congrArg (BitVec.extractLsb' n m) h
  have low := congrArg (BitVec.extractLsb' 0 n) h
  rw [BitVec.extractLsb'_append_eq_left, BitVec.extractLsb'_append_eq_left] at high
  rw [BitVec.extractLsb'_append_eq_right, BitVec.extractLsb'_append_eq_right] at low
  exact ⟨high, low⟩

namespace Layout

section Words

variable {w : Insn} {op : BitVec 7} {f3 : BitVec 3}

theorem r_fields {f7 : BitVec 7} (hop : Field.opcode w = op) (h3 : Field.funct3 w = f3)
    (h7 : Field.funct7 w = f7) : r f7 (Field.rs2 w) (Field.rs1 w) f3 (Field.rd w) op = w := by
  subst hop h3 h7
  apply BitVec.eq_of_toNat_eq
  rw [r_toNat, Field.funct7_toNat, Field.rs2_toNat, Field.rs1_toNat, Field.funct3_toNat, Field.rd_toNat,
    Field.opcode_toNat]
  have := w.isLt
  omega

theorem cf_fields {f : CfId} {mid : Reg} (hop : Field.opcode w = op) (hf : Field.cfId w = f)
    (hmid : Field.rd w = mid) : cf f (Field.rs2 w) (Field.rs1 w) mid op = w := by
  subst hf hmid
  refine r_fields hop ?_ ?_ <;> apply BitVec.eq_of_toNat_eq <;>
    simp only [field_toNat, Field.cfId_toNat, Field.funct3_toNat, Field.funct7_toNat] <;> omega

theorem i_fields (hop : Field.opcode w = op) (h3 : Field.funct3 w = f3) :
    i (Field.immI w) (Field.rs1 w) f3 (Field.rd w) op = w := by
  subst hop h3
  apply BitVec.eq_of_toNat_eq
  rw [i_toNat, Field.immI_toNat, Field.rs1_toNat, Field.funct3_toNat, Field.rd_toNat, Field.opcode_toNat]
  have := w.isLt
  omega

theorem sh_fields (hop : Field.opcode w = op) (h3 : Field.funct3 w = f3) (h6 : Field.funct6 w = 0) :
    sh (Field.shamt w) (Field.rs1 w) f3 (Field.rd w) op = w := by
  subst hop h3
  have high : w.toNat / 67108864 % 64 = 0 := by rw [← Field.funct6_toNat, h6]; rfl
  apply BitVec.eq_of_toNat_eq
  rw [sh_toNat, Field.shamt_toNat, Field.rs1_toNat, Field.funct3_toNat, Field.rd_toNat, Field.opcode_toNat]
  have := w.isLt
  omega

theorem s_fields (hop : Field.opcode w = op) (h3 : Field.funct3 w = f3) :
    s (Field.immS w) (Field.rs2 w) (Field.rs1 w) f3 op = w := by
  subst hop h3
  apply BitVec.eq_of_toNat_eq
  rw [s_toNat, Field.immS_toNat, Field.rs2_toNat, Field.rs1_toNat, Field.funct3_toNat, Field.opcode_toNat]
  have := w.isLt
  omega

/-- A branch offset holds every bit of the two fields that it is spread over (R315). -/
theorem fields_of_offB_eq {v : Insn} (h : Field.offB v = Field.offB w) :
    Field.funct7 v = Field.funct7 w ∧ Field.rd v = Field.rd w := by
  obtain ⟨upper, low⟩ := append_parts_eq (m := 8) (n := 4) h
  obtain ⟨top, middle⟩ := append_parts_eq (m := 2) (n := 6) upper
  obtain ⟨sign, second⟩ := append_parts_eq (m := 1) (n := 1) top
  constructor <;> apply BitVec.eq_of_toNat_eq
  · simp only [← BitVec.toNat_inj, field_toNat] at sign middle
    rw [Field.funct7_toNat, Field.funct7_toNat]
    have := v.isLt
    have := w.isLt
    omega
  · simp only [← BitVec.toNat_inj, field_toNat] at second low
    rw [Field.rd_toNat, Field.rd_toNat]
    omega

/-- The laid out word has the fields of `w`, so it is `w`. -/
theorem b_fields (hop : Field.opcode w = op) (h3 : Field.funct3 w = f3) :
    b (Field.offB w) (Field.rs2 w) (Field.rs1 w) f3 op = w := by
  obtain ⟨sameOp, same3, sameRs1, sameRs2, sameOff⟩ := fields_b (Field.offB w) (Field.rs2 w) (Field.rs1 w) f3 op
  obtain ⟨same7, sameRd⟩ := fields_of_offB_eq sameOff
  rw [← r_fields sameOp same3 same7, sameRs1, sameRs2, sameRd]
  exact r_fields hop h3 rfl

theorem u_fields (hop : Field.opcode w = op) : u (Field.immU w) (Field.rd w) op = w := by
  subst hop
  apply BitVec.eq_of_toNat_eq
  rw [u_toNat, Field.immU_toNat, Field.rd_toNat, Field.opcode_toNat]
  have := w.isLt
  omega

/-- A jump offset holds every bit of the field that it permutes (R317). -/
theorem immU_of_offJ_eq {v : Insn} (h : Field.offJ v = Field.offJ w) : Field.immU v = Field.immU w := by
  obtain ⟨upper, low⟩ := append_parts_eq (m := 10) (n := 10) h
  obtain ⟨top, middle⟩ := append_parts_eq (m := 9) (n := 1) upper
  obtain ⟨sign, second⟩ := append_parts_eq (m := 1) (n := 8) top
  simp only [← BitVec.toNat_inj, field_toNat] at low middle sign second
  have := v.isLt
  have := w.isLt
  apply BitVec.eq_of_toNat_eq
  rw [Field.immU_toNat, Field.immU_toNat]
  omega

/-- The laid out word has the fields of `w`, so it is `w`. -/
theorem j_fields (hop : Field.opcode w = op) : j (Field.offJ w) (Field.rd w) op = w := by
  obtain ⟨sameOp, sameRd, sameOff⟩ := fields_j (Field.offJ w) (Field.rd w) op
  rw [← u_fields sameOp, sameRd, immU_of_offJ_eq sameOff]
  exact u_fields hop

end Words

end Layout

section Decoders

variable {cfg : Config} {w : Insn} {i : Instr}

theorem upper25_append {op : BitVec 7} (hop : Field.opcode w = op) : Field.upper25 w ++ op = w := by
  subst hop
  apply BitVec.eq_of_toNat_eq
  refine (append_toNat (m := 25) (n := 7) _ _).trans ?_
  rw [Field.upper25_toNat, Field.opcode_toNat]
  have := w.isLt
  omega

/-! #### The decoder of each major opcode keeps every bit -/

theorem encode_decodeCustom0 (op : Field.opcode w = 0b0001011#7) : encode cfg (decodeCustom0 cfg w) = w := by
  simp only [decodeCustom0]
  split_ifs with readStatus writeStatus readState writeState
  · exact Layout.cf_fields op readStatus rfl
  · exact Layout.cf_fields op writeStatus rfl
  · exact Layout.cf_fields op readState rfl
  · exact Layout.cf_fields op writeState rfl
  · exact Layout.cf_fields op rfl rfl

theorem encode_decodeCustom2 (op : Field.opcode w = 0b1011011#7) : encode cfg (decodeCustom2 w) = w := by
  unfold decodeCustom2
  split_ifs with short
  · exact Layout.cf_fields op rfl short
  · exact upper25_append op

theorem encode_of_decodeSystem (op : Field.opcode w = 0b1110011#7) (h : decodeSystem w = .ok i) :
    encode cfg i = w := by
  unfold decodeSystem at h
  split_ifs at h with f3 f3 f3 f3 f3 f3 isEcall isMret <;> cases h
  case pos | pos | pos | pos | pos | pos => exact Layout.i_fields op f3
  · exact isEcall.symm
  · exact isMret.symm

theorem encode_of_decodeOpImm (op : Field.opcode w = 0b0010011#7) (h : decodeOpImm w = .ok i) :
    encode cfg i = w := by
  unfold decodeOpImm at h
  split_ifs at h with f3 f3 f3 f6 f3 f6 <;> cases h
  · exact Layout.i_fields op f3
  · exact Layout.i_fields op f3
  · exact Layout.sh_fields op f3 f6
  · exact Layout.sh_fields op f3 f6

theorem encode_of_decodeOp (op : Field.opcode w = 0b0110011#7) (h : decodeOp w = .ok i) : encode cfg i = w := by
  unfold decodeOp at h
  split_ifs at h with f3 f7
  cases h
  exact Layout.r_fields op f3 f7

theorem encode_of_decodeLoad (op : Field.opcode w = 0b0000011#7) (h : decodeLoad w = .ok i) :
    encode cfg i = w := by
  unfold decodeLoad at h
  split_ifs at h with f3 f3 <;> cases h <;> exact Layout.i_fields op f3

theorem encode_of_decodeStore (op : Field.opcode w = 0b0100011#7) (h : decodeStore w = .ok i) :
    encode cfg i = w := by
  unfold decodeStore at h
  split_ifs at h with f3 f3 <;> cases h <;> exact Layout.s_fields op f3

theorem encode_of_decodeBranch (op : Field.opcode w = 0b1100011#7) (h : decodeBranch w = .ok i) :
    encode cfg i = w := by
  unfold decodeBranch at h
  split_ifs at h with f3 f3 <;> cases h <;> exact Layout.b_fields op f3

/-- Every word that decodes has one of the twelve major opcodes (R116, R322). -/
theorem opcode_of_decodeWord (h : decodeWord cfg w = .ok i) :
    Field.opcode w = 0b0001011#7 ∨ Field.opcode w = 0b0101011#7 ∨ Field.opcode w = 0b1011011#7 ∨
    Field.opcode w = 0b1111011#7 ∨ Field.opcode w = 0b1110011#7 ∨ Field.opcode w = 0b0110111#7 ∨
    Field.opcode w = 0b0010011#7 ∨ Field.opcode w = 0b0110011#7 ∨ Field.opcode w = 0b0000011#7 ∨
    Field.opcode w = 0b0100011#7 ∨ Field.opcode w = 0b1100011#7 ∨ Field.opcode w = 0b1101111#7 := by
  by_contra unknown
  simp only [not_or] at unknown
  simp [decodeWord, unknown] at h

end Decoders

/-- Settles O2: by its major opcode, a word is the layout of the fields that its decoder cuts out. -/
theorem encodeOfDecode : Obligations.EncodeOfDecode := by
  intro cfg w i h
  rcases opcode_of_decodeWord h with op | op | op | op | op | op | op | op | op | op | op | op
  · rw [decodeWord_custom0 op] at h
    cases h
    exact encode_decodeCustom0 op
  · rw [decodeWord_custom1 op] at h
    cases h
    exact Layout.i_fields op rfl
  · rw [decodeWord_custom2 op] at h
    cases h
    exact encode_decodeCustom2 op
  · rw [decodeWord_custom3 op] at h
    cases h
    exact upper25_append op
  · rw [decodeWord_system op] at h
    exact encode_of_decodeSystem op h
  · rw [decodeWord_lui op] at h
    cases h
    exact Layout.u_fields op
  · rw [decodeWord_opImm op] at h
    exact encode_of_decodeOpImm op h
  · rw [decodeWord_op op] at h
    exact encode_of_decodeOp op h
  · rw [decodeWord_load op] at h
    exact encode_of_decodeLoad op h
  · rw [decodeWord_store op] at h
    exact encode_of_decodeStore op h
  · rw [decodeWord_branch op] at h
    exact encode_of_decodeBranch op h
  · rw [decodeWord_jal op] at h
    cases h
    exact Layout.j_fields op

end Sys2Proof
end

/-! ### What the custom and CSR words decode to (R111, R115, R116) -/

section
namespace Sys2Proof.Machine

/-- A custom-0 word is an R-type custom function instruction with the word's CF_ID, whichever row it has (R123). -/
theorem cfForm_decodeCustom0 (s : State) (w : Insn) :
    CfForm s (decodeCustom0 s.cfg w) (Field.cfId w) (s.xr (Field.rs1 w)) (s.xr (Field.rs2 w))
      (some (Field.rd w)) := by
  simp only [decodeCustom0]
  split_ifs with readStatus writeStatus readState writeState
  · exact readStatus ▸ .readStatus ..
  · exact writeStatus ▸ .writeStatus ..
  · exact readState ▸ .readState ..
  · exact writeState ▸ .writeState ..
  · exact .reg ..

/-- A custom-2 word is a flex-type custom function instruction in both of its rows (R121). -/
theorem cfForm_decodeCustom2 (s : State) (w : Insn) :
    CfForm s (decodeCustom2 w) (Field.cfId w) (s.xr (Field.rs1 w)) (s.xr (Field.rs2 w)) none := by
  unfold decodeCustom2
  split_ifs
  · exact .flex ..
  · obtain ⟨id, first, second⟩ := upper25_fields w
    rw [← id, ← first, ← second]
    exact .flex25 _

/-- The six CSR instructions, by `funct3` (R115). -/
theorem decodeSystem_csr (w : Insn) :
    (Field.funct3 w = 1 → decodeSystem w = .ok (.csrrw (Field.rd w) (Field.immI w) (Field.rs1 w))) ∧
    (Field.funct3 w = 2 → decodeSystem w = .ok (.csrrs (Field.rd w) (Field.immI w) (Field.rs1 w))) ∧
    (Field.funct3 w = 3 → decodeSystem w = .ok (.csrrc (Field.rd w) (Field.immI w) (Field.rs1 w))) ∧
    (Field.funct3 w = 5 → decodeSystem w = .ok (.csrrwi (Field.rd w) (Field.immI w) (Field.rs1 w))) ∧
    (Field.funct3 w = 6 → decodeSystem w = .ok (.csrrsi (Field.rd w) (Field.immI w) (Field.rs1 w))) ∧
    (Field.funct3 w = 7 → decodeSystem w = .ok (.csrrci (Field.rd w) (Field.immI w) (Field.rs1 w))) := by
  and_intros <;> intro f3 <;> simp [decodeSystem, f3]

/-- Settles O3: the decoder of each major opcode reads the word's fields. -/
theorem customWordsDecode : Obligations.CustomWordsDecode := by
  intro s w
  refine ⟨fun op => ?_, fun op => ?_, fun op => ?_, fun op => decodeWord_custom3 op, fun op => ?_⟩
  · exact ⟨_, decodeWord_custom0 op, cfForm_decodeCustom0 s w⟩
  · exact ⟨_, decodeWord_custom1 op, .imm ..⟩
  · exact ⟨_, decodeWord_custom2 op, cfForm_decodeCustom2 s w⟩
  · rw [decodeWord_system op]
    exact decodeSystem_csr w

/-- Settles O4: each word of the worked examples (95_test_vectors.md) is evaluated. -/
theorem listedWordsDecode : Obligations.ListedWordsDecode := by
  unfold Obligations.ListedWordsDecode
  and_intros <;> decide

end Sys2Proof.Machine
end

/-! ### Custom operations: the CPU's own instructions, and what an operation may change (R142, R202, R210, R211) -/

section
namespace Sys2Proof.Machine

section Dispatch

variable {s : State}

/-- Under a known version with `cxe` = 0, what is no request is the CPU's own instruction: everything under version 0, and
the custom-3 words under version 1 as well (R201, R210). -/
theorem customOp_builtin {kind : OpKind} (cxe : selCxe s.mcxSelector = false)
    (version : selVersion s.mcxSelector = 0 ∨ (selVersion s.mcxSelector = 1 ∧ kind = .cf3)) (insn : Insn)
    (func : FuncId) (d0 d1 : Word) (dest : Option Reg) :
    s.customOp kind insn func d0 d1 dest = s.builtin insn := by
  have known : versionReserved (selVersion s.mcxSelector) = false := by
    rcases version with h | ⟨h, _⟩ <;> rw [h] <;> rfl
  rcases customOp_cases s kind insn func d0 d1 dest with
    ⟨reserved, _⟩ | ⟨_, set, _⟩ | ⟨_, _, _, e⟩ | ⟨_, _, one, not3, _⟩
  · exact absurd (known.symm.trans reserved) Bool.noConfusion
  · exact absurd (cxe.symm.trans set) Bool.noConfusion
  · exact e
  · rcases version with zero | ⟨_, is3⟩
    · exact absurd (zero.symm.trans one) (by decide)
    · exact absurd is3 not3

/-- Settles O37: the dispatch leads to `BUILTIN`; the kind is custom-3 for the custom-3 words. -/
theorem builtinResult : Obligations.BuiltinResult := by
  intro s i dest form cxe version
  obtain ⟨kind, func, d0, d1, run, is3⟩ := exec_customOpForm form
  have own := customOp_builtin cxe (version.imp_right fun ⟨one, custom3⟩ => ⟨one, is3.mpr custom3⟩)
    (encode s.cfg i) func d0 d1 dest
  rw [run, own]
  rfl

end Dispatch

section Frame

variable {s t : State}

/-- An operation on one context, then the answer: the destination, `cx_status`, that context and `pc` are all that
changes (R202, R205, R211). -/
theorem CtxUpdate.advanced {c k : BitVec 8} (h : CtxUpdate s c k t) (f : Option CxFlag) (dest : Option Reg)
    (v : Word) :
    Advanced s ((t.setFlag f).setDest dest v).advance (destRegs dest) [.cxStatus] [(c, k)] [] := by
  have kept : Unchanged s t [] [.cxStatus] [(c, k)] [] := h.unchanged Option.none
  have answered := advanced_answer t f dest v
  have hart := h.toHart_eq
  exact {
    regs := fun j hj => (answered.regs j hj).trans (kept.regs j List.not_mem_nil)
    csrs := fun r hr => (answered.csrs r hr).trans (kept.csrs r hr)
    ctxs := fun cx c' k' hc => (answered.ctxs cx c' k' List.not_mem_nil).trans (kept.ctxs cx c' k' hc)
    bytes := fun a ha => (answered.bytes a ha).trans (kept.bytes a ha)
    text := answered.text.trans kept.text
    cfg := answered.cfg.trans kept.cfg
    level := answered.level.trans (congrArg Hart.priv hart)
    pc := by rw [answered.pc, kept.cfg, congrArg Hart.pc hart] }

theorem CxFlag.bit_lt (f : CxFlag) : f.bit < 7 := by cases f <;> decide

/-- After an operation on one context and the answer, `cx_status` is as before or has one more of its seven flags. -/
theorem CtxUpdate.cxStatus_answer {c k : BitVec 8} (h : CtxUpdate s c k t) (f : Option CxFlag) (dest : Option Reg)
    (v : Word) :
    ((t.setFlag f).setDest dest v).advance.cxStatus = s.cxStatus ∨
      ∃ b, b < 7 ∧ ((t.setFlag f).setDest dest v).advance.cxStatus = s.cxStatus ||| BitVec.twoPow 32 b := by
  have answered : ((t.setFlag f).setDest dest v).advance.cxStatus = (s.setFlag f).cxStatus := by
    simpa using setFlag_cxStatus_congr (congrArg Hart.cxStatus h.toHart_eq) f
  rw [answered]
  cases f with
  | none => exact .inl rfl
  | some f => exact .inr ⟨f.bit, f.bit_lt, rfl⟩

/-- Settles O57: the dispatch ends in an exception, in `IV` alone, or in a request, which works on the selected context. -/
theorem customOperationFrame : Obligations.CustomOperationFrame := by
  intro s t i dest form noBuiltin h
  obtain ⟨kind, func, d0, d1, run, _⟩ := exec_customOpForm form
  cases run.symm.trans h
  rcases customOp_cases s kind (encode s.cfg i) func d0 d1 dest with
    ⟨_, e⟩ | ⟨_, _, e⟩ | ⟨_, _, _, e⟩ | ⟨_, _, _, _, e⟩ <;> rw [e]
  · have untouched : CtxUpdate s (selCxuId s.mcxSelector) (selStateId s.mcxSelector) s := .none
    exact .inr ⟨untouched.advanced _ dest 0, untouched.cxStatus_answer _ dest 0⟩
  · exact .inl (illegal_entered s _)
  · rw [builtin_eq_illegal noBuiltin]
    exact .inl (illegal_entered s _)
  · have updated := decideOp_update s
      { cxu := selCxuId s.mcxSelector, state := selStateId s.mcxSelector, insn := encode s.cfg i, func := func,
        data0 := d0, data1 := d1 }
    exact .inr ⟨updated.advanced _ dest _, updated.cxStatus_answer _ dest _⟩

end Frame

end Sys2Proof.Machine
end

/-! ### CSR instructions that an address refuses or does not have (R162 to R164, R187) -/

section
namespace Sys2Proof.Machine

section Refused

variable {s : State} {i : Instr} {a : CsrAddr} {rd : Reg} {fn : CsrFn} {src : Word}

/-- A CSR instruction whose address fails the checks is illegal, whatever stands at the address (R161, R164). -/
theorem exec_csrForm_denied (form : CsrForm s i a rd fn src) (denied : ¬csrAllowed a fn s.priv) :
    exec i s = .next (s.illegal (encode s.cfg i)) := by
  rw [exec_csrForm form]
  rcases csrCommon_cases s (encode s.cfg i) a fn src rd with ⟨_, e⟩ | ⟨passed, _⟩
  · rw [e]
  · exact absurd ((csrDenied_iff a fn s.priv).mp passed) denied

/-- A CSR instruction at an address with no CSR is illegal, whether the checks pass or not (R161, R187). -/
theorem exec_csrForm_absent (form : CsrForm s i a rd fn src) (absent : csrClass a = .absent) :
    exec i s = .next (s.illegal (encode s.cfg i)) := by
  rw [exec_csrForm form]
  unfold State.csrCommon
  rw [absent]
  split <;> rfl

end Refused

/-- Settles O26: the two ways to fail the checks of an address. -/
theorem csrCheckTraps : Obligations.CsrCheckTraps := by
  intro s i a rd fn src form failed
  have denied : ¬csrAllowed a fn s.priv := by
    rintro ⟨reached, noWrite⟩
    rcases failed with above | readOnly
    · exact absurd above (BitVec.not_lt.mpr reached)
    · exact noWrite readOnly
  exact ⟨_, exec_csrForm_denied form denied, illegal_entered s _⟩

section Addresses

variable {a : CsrAddr}

/-- The eleven ranges set aside for custom use (R162). -/
def customRanges : List (CsrAddr × CsrAddr) :=
  [(0x800, 0x8FF), (0xCC0, 0xCFF), (0x5C0, 0x5FF), (0x9C0, 0x9FF), (0xDC0, 0xDFF), (0x6C0, 0x6FF),
    (0xAC0, 0xAFF), (0xEC0, 0xEFF), (0x7C0, 0x7FF), (0xBC0, 0xBFF), (0xFC0, 0xFFF)]

theorem inCustomRange_iff (a : CsrAddr) : inCustomRange a = true ↔ ∃ r ∈ customRanges, r.1 ≤ a ∧ a ≤ r.2 := by
  simp [inCustomRange, inRange, customRanges, or_assoc]

/-- The address of a CX-ISA CSR (R26). -/
def CxIsaCsr.addr : CxIsaCsr → CsrAddr
  | .cxIndex => 0x800
  | .cxStatus => 0x801
  | .mcxSelector => 0xBC0
  | .mcxTable => 0xBC1

theorem cxIsaCsr?_eq_some {r : CxIsaCsr} (h : cxIsaCsr? a = some r) : a = r.addr := by
  unfold cxIsaCsr? at h
  split_ifs at h with index status selector table <;> cases h
  · exact index
  · exact status
  · exact selector
  · exact table

theorem cxIsaCsr?_eq_none_iff : cxIsaCsr? a = none ↔ a ∉ [(0x800 : CsrAddr), 0x801, 0xBC0, 0xBC1] := by
  simp only [List.mem_cons, List.not_mem_nil, or_false, not_or]
  constructor
  · intro h
    refine ⟨?_, ?_, ?_, ?_⟩ <;> (rintro rfl; cases h)
  · rintro ⟨noIndex, noStatus, noSelector, noTable⟩
    exact (if_neg noIndex).trans ((if_neg noStatus).trans ((if_neg noSelector).trans (if_neg noTable)))

/-- The CX-ISA CSRs stand in the custom ranges (R26, R162). -/
theorem inCustomRange_cxIsaCsr (r : CxIsaCsr) : inCustomRange r.addr = true := by
  cases r <;> decide

theorem baseCsr?_eq_none (h : a ∉ [(0x300 : CsrAddr), 0x305, 0x340, 0x341, 0x342, 0x343]) : baseCsr? a = none := by
  simp only [List.mem_cons, List.not_mem_nil, or_false, not_or] at h
  obtain ⟨noStatus, noTvec, noScratch, noEpc, noCause, noTval⟩ := h
  exact (if_neg noStatus).trans ((if_neg noTvec).trans ((if_neg noScratch).trans ((if_neg noEpc).trans
    ((if_neg noCause).trans (if_neg noTval)))))

/-- Outside the custom ranges and the base CSRs no address has a CSR (R160, R187). -/
theorem csrClass_absent (outside : inCustomRange a = false) (noBase : baseCsr? a = none) :
    csrClass a = .absent := by
  have noIsa : cxIsaCsr? a = none := by
    cases found : cxIsaCsr? a with
    | none => rfl
    | some r =>
      rw [cxIsaCsr?_eq_some found, inCustomRange_cxIsaCsr r] at outside
      exact absurd outside Bool.noConfusion
  have noCustom : isCustomCsr a = false := by rw [isCustomCsr, outside, Bool.false_and]
  unfold csrClass
  rw [noIsa, noCustom, noBase]
  rfl

end Addresses

/-- Settles O34: custom addresses are the ranges without the CX-ISA CSRs; outside them is a base CSR or none. -/
theorem absentCsrTraps : Obligations.AbsentCsrTraps := by
  rintro a _ rfl
  refine ⟨?_, fun s i rd fn src form outside noBase => ⟨_, exec_csrForm_absent form ?_, illegal_entered s _⟩⟩
  · rw [isCustomCsr, Bool.and_eq_true, Option.isNone_iff_eq_none]
    exact and_congr (inCustomRange_iff a) cxIsaCsr?_eq_none_iff
  · refine csrClass_absent (Bool.eq_false_iff.mpr fun inside => ?_) (baseCsr?_eq_none noBase)
    obtain ⟨r, hr, within⟩ := (inCustomRange_iff a).mp inside
    exact outside r hr within

end Sys2Proof.Machine
end

/-! ### `cx_status` and `mcx_selector` (R38, R171, R172) -/

section
namespace Sys2Proof.Machine

variable {s : State} {i : Instr} {rd : Reg} {fn : CsrFn} {src : Word}

/-- A CSR instruction at a CX-ISA CSR that passes the checks of the address is the access (R161, R164). -/
theorem exec_cxIsa_allowed {a : CsrAddr} {r : CxIsaCsr} (form : CsrForm s i a rd fn src) (hr : cxIsaCsr? a = some r)
    (allowed : csrAllowed a fn s.priv) : exec i s = .next (s.cxIsaAccess (encode s.cfg i) r fn src rd) := by
  rcases exec_cxIsa form hr with ⟨denied, _⟩ | ⟨_, run⟩
  · exact absurd allowed denied
  · exact run

/-- An instruction that changes no CSR changes none outside any list of them. -/
theorem Advanced.weaken {t : State} {regs : List Reg} {ctxs : List (BitVec 8 × BitVec 8)} {bytes : List Nat}
    (h : Advanced s t regs [] ctxs bytes) (csrs : List HartCsr) : Advanced s t regs csrs ctxs bytes :=
  { h with csrs := fun r _ => h.csrs r List.not_mem_nil }

section Status

/-- The address of `cx_status` passes the checks at every level, for every access (R26, R164). -/
theorem csrAllowed_cxStatus (fn : CsrFn) (p : Priv) : csrAllowed 0x801 fn p :=
  ⟨by cases p <;> decide, fun h => absurd h.2 (by decide)⟩

theorem cxIsaAccess_cxStatus (writes : fn ≠ .read) (insn : Insn) :
    s.cxIsaAccess insn .cxStatus fn src rd =
      ((s.writeCxStatus ((csrNew fn (zextX s.cxStatus) src).setWidth 32)).setX rd (zextX s.cxStatus)).advance := by
  unfold State.cxIsaAccess
  simp [cxIsaExists, writes, State.readCxIsa]

/-- A write of `cx_status` changes that CSR alone (R172). -/
theorem writeCxStatus_unchanged (s : State) (v : BitVec 32) : Unchanged s (s.writeCxStatus v) [] [.cxStatus] [] [] where
  regs := fun _ _ => rfl
  csrs := by
    intro r hr
    cases r with
    | cxStatus => simp at hr
    | _ => rfl
  ctxs := fun _ _ _ _ => rfl
  bytes := fun _ _ => rfl
  text := rfl
  cfg := rfl

/-- A register that holds seven bits of flags is at most 0x7F, `x[0]` among them (R38, R172). -/
theorem xr_le_of_holds_statusBits {t : State} {v : BitVec 32} (held : t.holds rd (zextX v)) (flags : statusBits v = v) :
    (t.xr rd).toNat ≤ 0x7F := by
  have low : v.toNat ≤ 0x7F := by
    rw [← flags, statusBits, BitVec.toNat_and]
    exact Nat.and_le_right
  rw [held, norm_zextX32]
  split
  · exact Nat.zero_le _
  · rw [zextX, BitVec.toNat_setWidth]
    exact (Nat.mod_le _ _).trans low

end Status

/-- Settles O27: the read forms change `x[rd]` alone, the write forms `cx_status` too; the old flags are seven bits. -/
theorem cxStatusAccess : Obligations.CxStatusAccess := by
  intro s i rd fn src form
  have run := exec_cxIsa_allowed (r := .cxStatus) form (by decide) (csrAllowed_cxStatus fn s.priv)
  by_cases reads : fn = .read
  · subst reads
    rw [cxIsaAccess_read (r := .cxStatus) rfl] at run
    have held : (s.setX rd (zextX s.cxStatus)).advance.holds rd (zextX s.cxStatus) := holds_setX_advance s rd _
    refine ⟨_, run, (advanced_setX (.refl s) rfl rfl rd _).weaken _, held,
      fun inv => xr_le_of_holds_statusBits held inv.status, ?_⟩
    simp
  · rw [cxIsaAccess_cxStatus reads, csrNew_eq_accessed] at run
    have held := holds_setX_advance
      (s.writeCxStatus ((accessed fn (zextX s.cxStatus) src).setWidth 32)) rd (zextX s.cxStatus)
    refine ⟨_, run, advanced_setX (writeCxStatus_unchanged s _) rfl rfl rd _, held,
      fun inv => xr_le_of_holds_statusBits held inv.status, ?_⟩
    rw [if_neg reads, advance_cxStatus, setX_cxStatus, writeCxStatus_cxStatus, statusBits]

section Selector

theorem csrAllowed_mcxSelector (fn : CsrFn) : csrAllowed 0xBC0 fn .machine :=
  ⟨by decide, fun h => absurd h.2 (by decide)⟩

theorem cxIsaAccess_mcxSelector (writes : fn ≠ .read) (insn : Insn) :
    s.cxIsaAccess insn .mcxSelector fn src rd =
      ((s.writeSelector ((csrNew fn (zextX s.mcxSelector) src).setWidth 32)).setX rd (zextX s.mcxSelector)).advance := by
  unfold State.cxIsaAccess
  simp [cxIsaExists, writes, State.readCxIsa]

/-- A write of `mcx_selector` changes that CSR and the flags alone (R171). -/
theorem writeSelector_unchanged (s : State) (v : BitVec 32) :
    Unchanged s (s.writeSelector v) [] [.mcxSelector, .cxStatus] [] [] where
  regs := fun j _ => xr_writeSelector s v j
  csrs := by
    intro r hr
    cases r with
    | mcxSelector | cxStatus => simp at hr
    | _ => simp [State.csr]
  ctxs := by
    intro cx c i _
    simp [State.ctx]
  bytes := by
    intro b _
    simp
  text := writeSelector_text s v
  cfg := writeSelector_cfg s v

end Selector

/-- Settles O28: the read forms change `x[rd]` alone, the write forms write a selector. -/
theorem mcxSelectorAccess : Obligations.McxSelectorAccess := by
  rintro s i rd fn src v form level rfl
  have run := exec_cxIsa_allowed (r := .mcxSelector) form (by decide) (level ▸ csrAllowed_mcxSelector fn)
  by_cases reads : fn = .read
  · subst reads
    rw [cxIsaAccess_read (r := .mcxSelector) rfl] at run
    refine ⟨_, run, (advanced_setX (.refl s) rfl rfl rd _).weaken _, holds_setX_advance s rd _, ?_, ?_⟩ <;> simp
  · rw [cxIsaAccess_mcxSelector reads, csrNew_eq_accessed] at run
    refine ⟨_, run, advanced_setX (writeSelector_unchanged s _) (writeSelector_priv s _) (writeSelector_pc s _) rd _,
      holds_setX_advance _ rd _, ?_, ?_⟩
    · rw [if_neg reads, advance_mcxSelector, setX_mcxSelector, writeSelector_mcxSelector, selectorBits]
    · rw [advance_cxStatus, setX_cxStatus, writeSelector_cxStatus]
      simp [reads]

end Sys2Proof.Machine
end

/-! ### Functions and CSRs that the selected extension does not have (R185, R203, R206) -/

section
namespace Sys2Proof.Machine

section Invalid

variable {s t : State} {cx : ExtConfig}

theorem stdFn?_eq_none {cfg : Config} {f : CfId}
    (h : f ∉ [cfg.cfReadStatus, cfg.cfWriteStatus, cfg.cfReadState, cfg.cfWriteState]) : stdFn? cfg f = none := by
  simp only [List.mem_cons, List.not_mem_nil, or_false, not_or] at h
  obtain ⟨noReadStatus, noWriteStatus, noReadState, noWriteState⟩ := h
  simp [stdFn?, noReadStatus, noWriteStatus, noReadState, noWriteState]

/-- A CF_ID that is neither the extension's own nor a standard one of a stateful extension is invalid (R206). -/
theorem validFunc_cf_eq_false {cfg : Config} {f : CfId} (own : f ∉ cx.validCfs)
    (std : cx.stateful = true → stdFn? cfg f = none) (d1 : Word) : validFunc cfg cx (.cf f) d1 = false := by
  unfold validFunc
  cases stateful : cx.stateful with
  | false => simp [own]
  | true => simp [own, std stateful]

/-- A CSR address that is neither the extension's own, nor an identity CSR, nor a mandatory CX CSR of a stateful
extension, is invalid (R185, R206). -/
theorem validFunc_csr_eq_false {cfg : Config} {a : CsrAddr} (own : a ∉ cx.validCsrs) (guid : guidCsr? cfg cx a = none)
    (std : cx.stateful = true → stdCsr? a = none) (fn : CsrFn) :
    validFunc cfg cx (.csr fn) (csrOperand a) = false := by
  change validCsr cfg cx (csrOfOperand (csrOperand a)) = false
  rw [csrOfOperand_csrOperand, validCsr, guid]
  cases stateful : cx.stateful with
  | false => simp [own]
  | true => simp [own, std stateful]

/-- An invalid request to an extension whose context is neither off nor in reset sets `IF` and draws the data (R203). -/
theorem decideOp_invalidFunc {r : CxuRequest} (hcx : cxuOf s.cfg r.cxu = some cx)
    (state : validState cx r.state = true)
    (active : cx.stateful = true → (s.ctx cx r.cxu r.state).inactive = false)
    (invalid : validFunc s.cfg cx r.func r.data1 = false) :
    s.decideOp r = (norm s.cfg.xlen s.free, some .invalidFunc, s.drawn) := by
  rcases decideOp_cases s r with ⟨none, _⟩ | ⟨cx', found, h⟩
  · exact absurd (none.symm.trans hcx) nofun
  cases found.symm.trans hcx
  rcases h with ⟨noState, _⟩ | ⟨_, stateful, inactive, _⟩ | ⟨_, _, e⟩ | ⟨_, valid, _⟩
  · exact absurd (noState.symm.trans state) Bool.noConfusion
  · exact absurd ((active stateful).symm.trans inactive) Bool.noConfusion
  · exact e
  · exact absurd (invalid.symm.trans valid) Bool.noConfusion

/-- A free value drawn before an instruction completes is nothing that software sees. -/
theorem Advanced.of_drawn {regs : List Reg} {csrs : List HartCsr} {ctxs : List (BitVec 8 × BitVec 8)}
    {bytes : List Nat} (h : Advanced s.drawn t regs csrs ctxs bytes) : Advanced s t regs csrs ctxs bytes where
  regs := h.regs
  csrs := fun r hr => (h.csrs r hr).trans (by cases r <;> rfl)
  ctxs := h.ctxs
  bytes := h.bytes
  text := h.text
  cfg := h.cfg
  level := h.level
  pc := h.pc

/-- An invalid request to the selected extension, on a context that is neither off nor in reset: `IF` is set, the
destination receives a drawn value, and nothing else changes (R203, R205, R206). -/
theorem multiplex_invalidFunc {r : CxuRequest} (named : (r.cxu, r.state) = s.selected) (hs : Selects s cx)
    (active : cx.stateful = true → (s.selectedCtx cx).cs ≠ .off ∧ (s.selectedCtx cx).rst = false)
    (invalid : validFunc s.cfg cx r.func r.data1 = false) (dest : Option Reg) :
    Advanced s (s.multiplex r dest) (destRegs dest) [.cxStatus] [] [] ∧
      (s.multiplex r dest).cxStatus = s.cxStatus ||| 16#32 := by
  obtain ⟨cxu, state⟩ := Prod.mk.inj named
  have decided := decideOp_invalidFunc (r := r) (cxu ▸ hs.cxu) (state ▸ hs.state)
    (fun stateful => by
      obtain ⟨on, idle⟩ := active stateful
      rw [cxu, state]
      change (s.selectedCtx cx).inactive = false
      simp [Ctx.inactive, on, idle])
    invalid
  unfold State.multiplex
  rw [decided]
  refine ⟨(advanced_answer s.drawn (some .invalidFunc) dest _).of_drawn, ?_⟩
  rw [advance_cxStatus, setDest_cxStatus]
  rfl

end Invalid

/-- Settles O40: a CF_ID and a CSR address make requests, each of them invalid. -/
theorem invalidFunctionErrors : Obligations.InvalidFunctionErrors := by
  rintro s i dest cx hs active (⟨f, d0, d1, form, own, std⟩ | ⟨a, rd, fn, src, form, rfl, ha, hp, own, guid, std⟩)
  · have invalid := validFunc_cf_eq_false own (fun stateful => stdFn?_eq_none (std stateful)) d1
    exact ⟨_, exec_cfForm_multiplex form hs, multiplex_invalidFunc rfl hs active invalid dest⟩
  · have invalid := validFunc_csr_eq_false own (guidCsr?_eq_none guid) (fun stateful => stdCsr?_eq_none (std stateful)) fn
    exact ⟨_, exec_csrForm_multiplex form ha hp hs, multiplex_invalidFunc rfl hs active invalid (some rd)⟩

end Sys2Proof.Machine
end

/-! ### User level selects through the table alone (R164, R175, R366) -/

section
namespace Sys2Proof.Machine

/-- The table and the selector are kept. -/
structure KeepsSelection (s t : State) : Prop where
  table : t.mcxTable = s.mcxTable
  selector : t.mcxSelector = s.mcxSelector

/-- The table is kept, and the selector is the one of the table entry that `cx_index` now names (R83, R175). -/
structure LoadsSelection (s t : State) : Prop where
  table : t.mcxTable = s.mcxTable
  selector : t.mcxSelector = selectorBits (s.read32 (s.entryAddr (t.cxIndex.extractLsb' 0 10)))

section Instructions

variable {s : State}

/-- Without built-in instructions no custom operation changes the table or the selector (R201, R202). -/
theorem customOp_keepsSelection (hb : s.cfg.builtin = none) (kind : OpKind) (insn : Insn) (func : FuncId)
    (d0 d1 : Word) (dest : Option Reg) : KeepsSelection s (s.customOp kind insn func d0 d1 dest) := by
  rcases customOp_cases s kind insn func d0 d1 dest with
    ⟨_, e⟩ | ⟨_, _, e⟩ | ⟨_, _, _, e⟩ | ⟨_, _, _, _, e⟩ <;> rw [e]
  · exact ⟨by simp, by simp⟩
  · exact ⟨rfl, rfl⟩
  · rw [builtin_eq_illegal hb]
    exact ⟨rfl, rfl⟩
  · have hart := (decideOp_update s
      { cxu := selCxuId s.mcxSelector, state := selStateId s.mcxSelector, insn := insn, func := func,
        data0 := d0, data1 := d1 }).toHart_eq
    unfold State.multiplex
    exact ⟨by simpa using congrArg Hart.mcxTable hart, by simpa using congrArg Hart.mcxSelector hart⟩

theorem baseAccess_keepsSelection (r : BaseCsr) (fn : CsrFn) (src : Word) (rd : Reg) :
    KeepsSelection s (s.baseAccess r fn src rd) := by
  have written : ∀ v, KeepsSelection s (s.writeBase r v) := fun v => by cases r <;> exact ⟨rfl, rfl⟩
  unfold State.baseAccess
  dsimp only
  split
  · exact ⟨by simp, by simp⟩
  · exact ⟨by simp [(written _).table], by simp [(written _).selector]⟩

/-- The selector that a write of `cx_index` loads is that of the entry of the new index (R175). -/
theorem indexed_loadsSelection (s : State) (k : BitVec 10) (rd : Reg) (v : Word) :
    LoadsSelection s ((s.indexed k).setX rd v).advance where
  table := by simp [State.indexed]
  selector := by
    have index : (k.setWidth 32).extractLsb' 0 10 = k := by
      apply BitVec.eq_of_toNat_eq
      rw [field_toNat, BitVec.toNat_setWidth]
      omega
    rw [advance_mcxSelector, setX_mcxSelector, advance_cxIndex, setX_cxIndex, State.indexed,
      writeSelector_mcxSelector, writeSelector_cxIndex, index]

/-- Of the CX-ISA CSRs that user level reaches, a write of `cx_index` alone changes the selector (R26, R176). -/
theorem cxIsaAccess_selection {r : CxIsaCsr} (noSelector : r ≠ .mcxSelector) (noTable : r ≠ .mcxTable) (insn : Insn)
    (fn : CsrFn) (src : Word) (rd : Reg) :
    KeepsSelection s (s.cxIsaAccess insn r fn src rd) ∨
      (r = .cxIndex ∧ fn ≠ .read ∧ LoadsSelection s (s.cxIsaAccess insn r fn src rd)) := by
  unfold State.cxIsaAccess
  dsimp only
  split
  · exact .inl ⟨rfl, rfl⟩
  split
  · exact .inl ⟨by simp, by simp⟩
  next writes =>
  cases r with
  | cxIndex =>
    dsimp only
    rcases writeIndex_cases s (csrNew fn (s.readCxIsa .cxIndex) src) with ⟨e, _⟩ | ⟨cause, e, _⟩ <;> rw [e]
    · exact .inr ⟨rfl, writes, indexed_loadsSelection s _ rd _⟩
    · exact .inl ⟨rfl, rfl⟩
  | cxStatus => exact .inl ⟨by simp, by simp⟩
  | mcxSelector => exact absurd rfl noSelector
  | mcxTable => exact absurd rfl noTable

/-- `mcx_selector` and `mcx_table` are out of reach of user level (R26, R164). -/
theorem cxIsaCsr_of_user {r : CxIsaCsr} {fn : CsrFn} (hp : csrAllowed r.addr fn .user) :
    r ≠ .mcxSelector ∧ r ≠ .mcxTable := by
  obtain ⟨reached, _⟩ := hp
  constructor <;> (rintro rfl; exact absurd reached (by decide))

/-- A CSR instruction at user level keeps table and selector, or is a write of `cx_index` that loads the entry. -/
theorem csrCommon_selection (level : s.priv = .user) (hb : s.cfg.builtin = none) (insn : Insn) (a : CsrAddr)
    (fn : CsrFn) (src : Word) (rd : Reg) :
    KeepsSelection s (s.csrCommon insn a fn src rd) ∨
      (a = 0x800 ∧ fn ≠ .read ∧ LoadsSelection s (s.csrCommon insn a fn src rd)) := by
  rcases csrCommon_cases s insn a fn src rd with
    ⟨_, e⟩ | ⟨passed, ⟨r, isa, e⟩ | ⟨_, e⟩ | ⟨r, _, e⟩ | ⟨_, e⟩⟩ <;> rw [e]
  · exact .inl ⟨rfl, rfl⟩
  · have addr : a = r.addr := cxIsaCsr?_eq_some ((csrClass_cxIsa_iff a r).mp isa)
    have allowed : csrAllowed r.addr fn .user := addr ▸ level ▸ (csrDenied_iff a fn s.priv).mp passed
    obtain ⟨noSelector, noTable⟩ := cxIsaCsr_of_user allowed
    rcases cxIsaAccess_selection noSelector noTable insn fn src rd with kept | ⟨rfl, writes, loaded⟩
    · exact .inl kept
    · exact .inr ⟨addr, writes, loaded⟩
  · exact .inl (customOp_keepsSelection hb _ insn _ src _ _)
  · exact .inl (baseAccess_keepsSelection r fn src rd)
  · exact .inl ⟨rfl, rfl⟩

end Instructions

/-- Settles O59: of the effects of an instruction, a CSR instruction alone can change the selector. -/
theorem userSelectsThroughTheTable : Obligations.UserSelectsThroughTheTable := by
  intro s t i level hb run
  have selection : KeepsSelection s t ∨
      ∃ rd fn src, CsrForm s i 0x800 rd fn src ∧ fn ≠ .read ∧ LoadsSelection s t := by
    cases exec_effect run with
    | result rd v => exact .inl ⟨by simp, by simp⟩
    | next => exact .inl ⟨rfl, rfl⟩
    | goto => exact .inl ⟨rfl, rfl⟩
    | link rd v target => exact .inl ⟨by simp, by simp⟩
    | store32 a v => exact .inl ⟨by simp, by simp⟩
    | store64 a v => exact .inl ⟨by simp, by simp⟩
    | trap => exact .inl ⟨rfl, rfl⟩
    | trapFree => exact .inl ⟨rfl, rfl⟩
    | ret => exact .inl ⟨rfl, rfl⟩
    | @csr a rd fn src form =>
      rcases csrCommon_selection level hb (encode s.cfg i) a fn src rd with kept | ⟨rfl, writes, loaded⟩
      · exact .inl kept
      · exact .inr ⟨rd, fn, src, form, writes, loaded⟩
    | custom => exact .inl (customOp_keepsSelection hb _ _ _ _ _ _)
  rcases selection with kept | ⟨rd, fn, src, form, writes, loaded⟩
  · exact ⟨kept.table, .inl kept.selector⟩
  · exact ⟨loaded.table, .inr ⟨rd, fn, src, form, writes, loaded.selector⟩⟩

end Sys2Proof.Machine
end

/-! ### Custom operations: the errors of version, selection and context (R201, R203, R207, R208), and a stateful
extension's own function (R209, R211) -/

section
namespace Sys2Proof.Machine

section Errors

variable {s : State} {cx : ExtConfig} {i : Instr} {dest : Option Reg}

/-- Under a reserved version every custom operation is answered with `IV` and 0, whatever `cxe` holds (R201). -/
theorem customOp_reserved (reserved : versionReserved (selVersion s.mcxSelector) = true) (kind : OpKind) (insn : Insn)
    (func : FuncId) (d0 d1 : Word) (dest : Option Reg) :
    s.customOp kind insn func d0 d1 dest = ((s.setFlag (some .invalidVersion)).setDest dest 0).advance :=
  if_pos reserved

/-- Destination and `pc` are not part of `cx_status`: after an answer it has the flag of the answer (R202, R205). -/
theorem cxStatus_answer (s : State) (f : Option CxFlag) (dest : Option Reg) (v : Word) :
    ((s.setFlag f).setDest dest v).advance.cxStatus = (s.setFlag f).cxStatus := by
  rw [advance_cxStatus, setDest_cxStatus]

/-- Settles O36: the first branch of the dispatch is the one for the reserved versions. -/
theorem reservedVersionResult : Obligations.ReservedVersionResult := by
  intro s i dest form version
  obtain ⟨kind, func, d0, d1, run, _⟩ := exec_customOpForm form
  rw [customOp_reserved ((versionReserved_iff _).mpr version)] at run
  exact ⟨_, run, advanced_answer s _ dest 0, destHolds_answer s _ dest 0, cxStatus_answer s _ dest 0⟩

/-- The request of a custom operation to the CXU and the STATE_ID that the selector names (R202, R204). -/
def State.request (s : State) (insn : Insn) (func : FuncId) (d0 d1 : Word) : CxuRequest where
  cxu := selCxuId s.mcxSelector
  state := selStateId s.mcxSelector
  insn := insn
  func := func
  data0 := d0
  data1 := d1

/-- Under version 1 with `cxe` = 0 every custom operation but custom-3 is a request (R201, R202). -/
theorem exec_customOpForm_multiplex (form : CustomOpForm s i dest) (not3 : ∀ raw, i ≠ .custom3 raw)
    (version : selVersion s.mcxSelector = 1) (cxe : selCxe s.mcxSelector = false) :
    ∃ func d0 d1, exec i s = .next (s.multiplex (s.request (encode s.cfg i) func d0 d1) dest) := by
  obtain ⟨kind, func, d0, d1, run, is3⟩ := exec_customOpForm form
  refine ⟨func, d0, d1, run.trans ?_⟩
  rcases customOp_cases s kind (encode s.cfg i) func d0 d1 dest with
    ⟨reserved, _⟩ | ⟨_, set, _⟩ | ⟨_, _, builtin, _⟩ | ⟨_, _, _, _, e⟩
  · rw [version] at reserved
    exact absurd reserved (by decide)
  · exact absurd (cxe.symm.trans set) Bool.noConfusion
  · rcases builtin with zero | custom3
    · exact absurd (zero.symm.trans version) (by decide)
    · obtain ⟨raw, named⟩ := is3.mp custom3
      exact absurd named (not3 raw)
  · rw [e]
    rfl

/-- A STATE_ID is invalid at or above the number of contexts of a stateful extension, and where a stateless one accepts
neither 0 nor it (R207). -/
theorem validState_eq_false {k : BitVec 8}
    (h : if cx.stateful then cx.nContexts ≤ k.toNat else k ≠ 0 ∧ cx.statelessStates.getLsbD k.toNat = false) :
    validState cx k = false := by
  unfold validState
  cases stateful : cx.stateful with
  | true => simpa [stateful] using h
  | false => simpa [stateful] using h

theorem decideOp_invalidCxu {r : CxuRequest} (unmapped : cxuOf s.cfg r.cxu = none) :
    s.decideOp r = (0, some .invalidCxu, s) := by
  unfold State.decideOp
  rw [unmapped]

theorem decideOp_invalidState {r : CxuRequest} (hcx : cxuOf s.cfg r.cxu = some cx)
    (invalid : validState cx r.state = false) : s.decideOp r = (0, some .invalidState, s) := by
  unfold State.decideOp
  rw [hcx]
  simp [invalid]

/-- A request that the selection refuses: the flag is set, the destination is zeroed, nothing else changes (R203, R205). -/
theorem multiplex_refused {r : CxuRequest} {f : CxFlag} (refused : s.decideOp r = (0, some f, s)) (dest : Option Reg) :
    Advanced s (s.multiplex r dest) (destRegs dest) [.cxStatus] [] [] ∧ (s.multiplex r dest).destHolds dest 0 ∧
      (s.multiplex r dest).cxStatus = f.into s.cxStatus := by
  unfold State.multiplex
  rw [refused]
  exact ⟨advanced_answer s _ dest 0, destHolds_answer s _ dest 0, cxStatus_answer s _ dest 0⟩

/-- Settles O38: each of the two decisions refuses the request. -/
theorem invalidSelectionErrors : Obligations.InvalidSelectionErrors := by
  intro s i dest form not3 version cxe
  obtain ⟨func, d0, d1, run⟩ := exec_customOpForm_multiplex form not3 version cxe
  exact ⟨fun unmapped => ⟨_, run, multiplex_refused (decideOp_invalidCxu unmapped) dest⟩,
    fun cx hcx invalid => ⟨_, run, multiplex_refused (decideOp_invalidState hcx (validState_eq_false invalid)) dest⟩⟩

/-- A request that needs the context, on one that is off or in reset, sets `OF` and draws the data (R203, R208). -/
theorem decideOp_contextOff {r : CxuRequest} (hcx : cxuOf s.cfg r.cxu = some cx)
    (state : validState cx r.state = true) (stateful : cx.stateful = true)
    (inactive : (s.ctx cx r.cxu r.state).inactive = true) (applies : offApplies r.func r.data1 = true) :
    s.decideOp r = (norm s.cfg.xlen s.free, some .contextOff, s.drawn) := by
  unfold State.decideOp
  rw [hcx]
  simp [state, stateful, inactive, applies]

/-- `OF` applies to every CSR access but those of the mandatory four (R208). -/
theorem offApplies_csr {a : CsrAddr} (std : a ∉ [(0x8FF : CsrAddr), 0x5FF, 0x5FE, 0x5FD]) (fn : CsrFn) :
    offApplies (.csr fn) (csrOperand a) = true := by
  change (stdCsr? (csrOfOperand (csrOperand a))).isNone = true
  rw [csrOfOperand_csrOperand, stdCsr?_eq_none std]
  rfl

/-- A request that needs the selected context, which is off or in reset: `OF` is set, the destination receives a drawn
value, and nothing else changes (R203, R205, R208). -/
theorem multiplex_contextOff {r : CxuRequest} (named : (r.cxu, r.state) = s.selected) (hs : Selects s cx)
    (stateful : cx.stateful = true) (inactive : (s.selectedCtx cx).cs = .off ∨ (s.selectedCtx cx).rst = true)
    (applies : offApplies r.func r.data1 = true) (dest : Option Reg) :
    Advanced s (s.multiplex r dest) (destRegs dest) [.cxStatus] [] [] ∧
      (s.multiplex r dest).cxStatus = s.cxStatus ||| 8#32 := by
  obtain ⟨cxu, state⟩ := Prod.mk.inj named
  have off : (s.ctx cx r.cxu r.state).inactive = true := by
    rw [cxu, state]
    change (s.selectedCtx cx).inactive = true
    simpa [Ctx.inactive] using inactive
  unfold State.multiplex
  rw [decideOp_contextOff (cxu ▸ hs.cxu) (state ▸ hs.state) stateful off applies]
  exact ⟨(advanced_answer s.drawn _ dest _).of_drawn, cxStatus_answer s.drawn _ dest _⟩

/-- Settles O39: a CF_ID and a CSR address make requests, each of which needs the context. -/
theorem inactiveContextErrors : Obligations.InactiveContextErrors := by
  rintro s i dest cx hs stateful inactive (⟨f, d0, d1, form⟩ | ⟨a, rd, fn, src, form, rfl, ha, hp, std⟩)
  · exact ⟨_, exec_cfForm_multiplex form hs, multiplex_contextOff rfl hs stateful inactive rfl dest⟩
  · exact ⟨_, exec_csrForm_multiplex form ha hp hs,
      multiplex_contextOff rfl hs stateful inactive (offApplies_csr std fn) (some rd)⟩

end Errors

section Stateful

variable {s t : State} {cx : ExtConfig}

/-- The destination, if there is one, holds a value of which its XLEN bits are written to it. -/
theorem destHolds_norm (cfg : t.cfg = s.cfg) (f : Option CxFlag) (dest : Option Reg) (v : Word) :
    ((t.setFlag f).setDest dest (norm s.cfg.xlen v)).advance.destHolds dest v := by
  rintro rd rfl
  exact holds_setX_norm ((setFlag_cfg t f).trans cfg) rd v

/-- The context that stays selected after an answer, with a destination or without, is the one the answer finds there. -/
theorem selectedCtx_setDest (h : t.mcxSelector = s.mcxSelector) (cx : ExtConfig) (f : Option CxFlag)
    (dest : Option Reg) (v : Word) : ((t.setFlag f).setDest dest v).advance.selectedCtx cx =
      t.ctx cx (selCxuId s.mcxSelector) (selStateId s.mcxSelector) := by
  simp [State.selectedCtx, State.ctx, h]

/-- A stateful extension performs a CF_ID that is none of the standard four with its own function (R211). -/
theorem perform_ownCf {r : CxuRequest} {f : CfId} (func : r.func = .cf f) (stateful : cx.stateful = true)
    (std : stdFn? s.cfg f = none) {res : CxResult}
    (hres : res = cx.cf f r.data0 r.data1 r.insn (s.ctx cx r.cxu r.state).st (s.ctx cx r.cxu r.state).error) :
    s.perform cx r = (norm s.cfg.xlen res.data, res.status, s.commitCtx cx r res) := by
  unfold State.perform
  rw [func]
  change s.performCf cx r f = _
  unfold State.performCf
  rw [if_pos stateful, std, hres]

/-- A stateful extension's own function, on an active context: the answer of the extension is committed (R209, R211). -/
theorem exec_statefulCf {i : Instr} {f : CfId} {d0 d1 : Word} {dest : Option Reg} (form : CfForm s i f d0 d1 dest)
    (hs : SelectsActive s cx) (own : f ∈ cx.validCfs)
    (std : f ∉ [s.cfg.cfReadStatus, s.cfg.cfWriteStatus, s.cfg.cfReadState, s.cfg.cfWriteState]) {res : CxResult}
    (hres : res = cx.cf f d0 d1 (encode s.cfg i) (s.selectedCtx cx).st (s.selectedCtx cx).error) :
    exec i s = .next
      (((s.commitCtx cx (s.request (encode s.cfg i) (.cf f) d0 d1) res).setFlag (respFlag res.status)).setDest dest
        (norm s.cfg.xlen res.data)).advance := by
  have run : exec i s = .next (s.multiplex (s.request (encode s.cfg i) (.cf f) d0 d1) dest) :=
    exec_cfForm_multiplex form hs.toSelects
  have performed : s.perform cx (s.request (encode s.cfg i) (.cf f) d0 d1) = _ :=
    perform_ownCf rfl hs.stateful (stdFn?_eq_none std) hres
  have decided := decideOp_valid (r := s.request (encode s.cfg i) (.cf f) d0 d1) hs.cxu hs.state
    (fun _ => by
      change (s.selectedCtx cx).inactive = false
      simp [Ctx.inactive, hs.on, hs.idle])
    (by simp [State.request, validFunc, own])
  rw [run]
  unfold State.multiplex
  rw [decided, performed]

/-- Settles O41: the commit of the result is the one update of a context. -/
theorem statefulFunctionResult : Obligations.StatefulFunctionResult := by
  intro s i f d0 d1 dest cx res form hs own std hres
  have run := exec_statefulCf form hs own std hres
  have committed := commitCtx_update s cx (s.request (encode s.cfg i) (.cf f) d0 d1) res
  refine ⟨_, run, committed.advanced _ dest _, destHolds_norm (by simp [State.commitCtx]) _ dest _, ?_, ?_⟩
  · rw [cxStatus_answer, setFlag_cxStatus_congr (congrArg Hart.cxStatus committed.toHart_eq)]
    cases res.status with
    | ok => rfl
    | op => rfl
    | cu => rfl
  · have selector := congrArg Hart.mcxSelector committed.toHart_eq
    exact (selectedCtx_setDest selector cx _ dest _).trans (ctx_commitCtx s cx _ res)

end Stateful

end Sys2Proof.Machine
end

/-! ### Accesses that complete on the selected context without a flag: the mandatory CX CSRs (R51, R240 to R256) and the
standard custom functions (R280 to R287) -/

section
namespace Sys2Proof.Machine

/-- The address of a mandatory CX CSR (R51). -/
def StdCsr.addr : StdCsr → CsrAddr
  | .error => 0x8FF
  | .status => 0x5FF
  | .index => 0x5FE
  | .data => 0x5FD

section Addresses

variable {r : StdCsr}

theorem stdCsr?_addr (r : StdCsr) : stdCsr? r.addr = some r := by cases r <;> rfl

theorem StdCsr.addr_inj {r' : StdCsr} (h : r.addr = r'.addr) : r = r' :=
  Option.some.inj ((stdCsr?_addr r).symm.trans ((congrArg stdCsr? h).trans (stdCsr?_addr r')))

theorem exists_stdCsr_addr {a : CsrAddr} (h : a ∈ [(0x8FF : CsrAddr), 0x5FF, 0x5FE, 0x5FD]) :
    ∃ r : StdCsr, a = r.addr := by
  simp only [List.mem_cons, List.not_mem_nil, or_false] at h
  rcases h with rfl | rfl | rfl | rfl
  · exact ⟨.error, rfl⟩
  · exact ⟨.status, rfl⟩
  · exact ⟨.index, rfl⟩
  · exact ⟨.data, rfl⟩

theorem isCustomCsr_stdCsr (r : StdCsr) : isCustomCsr r.addr = true := by cases r <;> decide

/-- `cxs_error` is reached at every level, the other three above user level, all of them for every access (R51, R164). -/
theorem csrAllowed_stdCsr {fn : CsrFn} {p : Priv} (level : r = .error ∨ p ≠ .user) : csrAllowed r.addr fn p := by
  refine ⟨?_, fun refused => absurd refused.2 (by cases r <;> decide)⟩
  rcases level with rfl | above
  · cases p <;> decide
  · cases p with
    | user => exact absurd rfl above
    | supervisor => cases r <;> decide
    | machine => cases r <;> decide

end Addresses

section Completion

variable {s u : State} {cx : ExtConfig} {i : Instr} {dest : Option Reg}

theorem csr_setDest (t : State) (dest : Option Reg) (v : Word) (r : HartCsr) : (t.setDest dest v).csr r = t.csr r := by
  cases r <;> simp [State.csr]

/-- An operation on one context, then an answer without a flag: no CSR changes either (R202, R205). -/
theorem CtxUpdate.advanced_ok {c k : BitVec 8} (h : CtxUpdate s c k u) (dest : Option Reg) (v : Word) :
    Advanced s (u.setDest dest v).advance (destRegs dest) [] [(c, k)] [] :=
  { h.advanced Option.none dest v with
    csrs := fun r _ => by
      rw [csr_advance, csr_setDest]
      exact csr_congr h.toHart_eq r }

/-- An instruction that updates the selected context and answers without a flag completes: the destination holds the
data, and the selected context is the updated one. -/
theorem completes_of_update {p : Word × State} (run : exec i s = .next (p.2.setDest dest p.1).advance)
    (h : CtxUpdate s s.selected.1 s.selected.2 p.2) :
    ∃ t, exec i s = .next t ∧ Advanced s t (destRegs dest) [] [s.selected] [] ∧ t.destHolds dest p.1 ∧
      t.selectedCtx cx = p.2.ctx cx s.selected.1 s.selected.2 :=
  ⟨_, run, h.advanced_ok dest p.1, destHolds_answer p.2 none dest p.1,
    selectedCtx_setDest (congrArg Hart.mcxSelector h.toHart_eq) cx none dest p.1⟩

@[simp] theorem ctx_setCtxDrawn_same (s : State) (cx : ExtConfig) (c i : BitVec 8) (k : Ctx) :
    (s.setCtxDrawn c i k).ctx cx c i = k := ctx_setCtx_same s cx c i k

/-- Where no reset is in progress, one starts, with nothing else changed (R250). -/
theorem startReset_idle {k : Ctx} (idle : k.rst = false) (steps : Nat) :
    k.startReset steps = { k with rst := true, stepsLeft := steps } := by simp [Ctx.startReset, idle]

end Completion

section StandardCf

variable {s : State} {cx : ExtConfig} {i : Instr} {f : CfId} {d0 d1 : Word} {dest : Option Reg}

/-- A standard CF_ID on an active context is answered by the standard function, in every form that carries it, and the
status is OK (R206, R211, R287). -/
theorem exec_standardCf {fn : StdFn} (form : CfForm s i f d0 d1 dest) (hs : SelectsActive s cx)
    (std : stdFn? s.cfg f = some fn) {p : Word × State}
    (answer : s.stdCf cx s.selected.1 s.selected.2 fn d0 d1 = p) :
    exec i s = .next (p.2.setDest dest p.1).advance := by
  have run : exec i s = .next (s.multiplex (s.request (encode s.cfg i) (.cf f) d0 d1) dest) :=
    exec_cfForm_multiplex form hs.toSelects
  have performed : s.perform cx (s.request (encode s.cfg i) (.cf f) d0 d1) = (p.1, .ok, p.2) := by
    change s.performCf cx _ f = _
    unfold State.performCf
    rw [if_pos hs.stateful, std, ← answer]
    rfl
  have decided := decideOp_valid (r := s.request (encode s.cfg i) (.cf f) d0 d1) hs.cxu hs.state
    (fun _ => by
      change (s.selectedCtx cx).inactive = false
      simp [Ctx.inactive, hs.on, hs.idle])
    (by simp [State.request, validFunc, hs.stateful, std])
  rw [run]
  unfold State.multiplex
  rw [decided, performed]
  rfl

/-- A standard custom function on an active context completes with its answer (R287). -/
theorem completes_standardCf {fn : StdFn} (form : CfForm s i f d0 d1 dest) (hs : SelectsActive s cx)
    (std : stdFn? s.cfg f = some fn) {p : Word × State}
    (answer : s.stdCf cx s.selected.1 s.selected.2 fn d0 d1 = p) :
    ∃ t, exec i s = .next t ∧ Advanced s t (destRegs dest) [] [s.selected] [] ∧ t.destHolds dest p.1 ∧
      t.selectedCtx cx = p.2.ctx cx s.selected.1 s.selected.2 :=
  completes_of_update (exec_standardCf form hs std answer) (answer ▸ stdCf_update s cx _ _ fn d0 d1)

theorem stdFn?_writeStatus {cfg : Config} (distinct : cfg.standardCfsDistinct = true) :
    stdFn? cfg cfg.cfWriteStatus = some .writeStatus := by
  obtain ⟨notReadStatus, _⟩ := standardCfs_distinct distinct
  simp [stdFn?, notReadStatus]

end StandardCf

section MandatoryCsr

variable {s : State} {cx : ExtConfig} {i : Instr} {r : StdCsr} {rd : Reg} {fn : CsrFn} {src : Word}

/-- A request for a mandatory CX CSR of a stateful extension is performed, its context off, in reset, or neither (R206,
R208, R211). -/
theorem decideOp_mandatoryCsr (hs : Selects s cx) (stateful : cx.stateful = true) (insn : Insn) {p : Word × State}
    (answer : s.stdCsr cx s.selected.1 s.selected.2 r fn src = p) :
    s.decideOp (s.csrRequest insn r.addr fn src) = (p.1, none, p.2) := by
  have operand : stdCsr? (csrOfOperand (csrOperand r.addr)) = some r := by
    rw [csrOfOperand_csrOperand, stdCsr?_addr]
  have valid : validFunc s.cfg cx (.csr fn) (csrOperand r.addr) = true := by
    simp [validFunc, validCsr, stateful, operand]
  have reached : offApplies (.csr fn) (csrOperand r.addr) = false := by simp [offApplies, operand]
  have performed : s.perform cx (s.csrRequest insn r.addr fn src) = (p.1, .ok, p.2) := by
    change s.performCsr cx _ fn (csrOfOperand (csrOperand r.addr)) = _
    unfold State.performCsr
    rw [if_pos stateful, operand, ← answer]
    rfl
  rcases decideOp_cases s (s.csrRequest insn r.addr fn src) with ⟨none, _⟩ | ⟨cx', found, h⟩
  · exact absurd (none.symm.trans hs.cxu) nofun
  cases found.symm.trans hs.cxu
  rcases h with ⟨invalid, _⟩ | ⟨_, _, _, applies, _⟩ | ⟨_, invalid, _⟩ | ⟨_, _, e⟩
  · exact absurd (invalid.symm.trans hs.state) Bool.noConfusion
  · exact absurd (reached.symm.trans applies) Bool.noConfusion
  · exact absurd (invalid.symm.trans valid) Bool.noConfusion
  · rw [e, performed]
    rfl

theorem exec_mandatoryCsr (form : CsrForm s i r.addr rd fn src) (hp : csrAllowed r.addr fn s.priv) (hs : Selects s cx)
    (stateful : cx.stateful = true) {p : Word × State}
    (answer : s.stdCsr cx s.selected.1 s.selected.2 r fn src = p) :
    exec i s = .next (p.2.setX rd p.1).advance := by
  rw [exec_csrForm_multiplex form (isCustomCsr_stdCsr r) hp hs]
  unfold State.multiplex
  rw [decideOp_mandatoryCsr hs stateful _ answer]
  rfl

/-- A CSR instruction at a mandatory CX CSR that passes the checks of the address completes with its answer, whatever the
context is in (R240, R248). -/
theorem completes_mandatoryCsr (form : CsrForm s i r.addr rd fn src) (hp : csrAllowed r.addr fn s.priv)
    (hs : Selects s cx) (stateful : cx.stateful = true) {p : Word × State}
    (answer : s.stdCsr cx s.selected.1 s.selected.2 r fn src = p) :
    ∃ t, exec i s = .next t ∧ Advanced s t [rd] [] [s.selected] [] ∧ t.holds rd p.1 ∧
      t.selectedCtx cx = p.2.ctx cx s.selected.1 s.selected.2 := by
  obtain ⟨t, run, advanced, held, ctx⟩ := completes_of_update (cx := cx) (dest := some rd)
    (exec_mandatoryCsr form hp hs stateful answer) (answer ▸ stdCsr_update s cx _ _ r fn src)
  exact ⟨t, run, advanced, held rd rfl, ctx⟩

theorem stdCsr_active (hs : SelectsActive s cx) (r : StdCsr) (fn : CsrFn) (src : Word) :
    s.stdCsr cx s.selected.1 s.selected.2 r fn src = s.stdCsrActive cx s.selected.1 s.selected.2 r fn src := by
  have idle : (s.ctx cx s.selected.1 s.selected.2).rst = false := hs.idle
  have on : (s.ctx cx s.selected.1 s.selected.2).cs ≠ .off := hs.on
  simp [State.stdCsr, idle, on]

theorem stdCsr_off (idle : (s.selectedCtx cx).rst = false) (off : (s.selectedCtx cx).cs = .off) (r : StdCsr)
    (fn : CsrFn) (src : Word) :
    s.stdCsr cx s.selected.1 s.selected.2 r fn src = s.stdCsrOff cx s.selected.1 s.selected.2 r fn src := by
  change (s.ctx cx s.selected.1 s.selected.2).rst = false at idle
  change (s.ctx cx s.selected.1 s.selected.2).cs = .off at off
  simp [State.stdCsr, idle, off]

theorem stdCsr_resetting (rst : (s.selectedCtx cx).rst = true) (r : StdCsr) (fn : CsrFn) (src : Word) :
    s.stdCsr cx s.selected.1 s.selected.2 r fn src = s.stdCsrResetting r := by
  change (s.ctx cx s.selected.1 s.selected.2).rst = true at rst
  simp [State.stdCsr, rst]

/-- On an active context, at a level that reaches it, the access of a mandatory CX CSR is the one of R241 to R256. -/
theorem completes_activeCsr (form : CsrForm s i r.addr rd fn src) (level : r = .error ∨ s.priv ≠ .user)
    (hs : SelectsActive s cx) :
    ∃ t, exec i s = .next t ∧ Advanced s t [rd] [] [s.selected] [] ∧
      t.holds rd (s.stdCsrActive cx s.selected.1 s.selected.2 r fn src).1 ∧
      t.selectedCtx cx =
        (s.stdCsrActive cx s.selected.1 s.selected.2 r fn src).2.ctx cx s.selected.1 s.selected.2 :=
  completes_mandatoryCsr form (csrAllowed_stdCsr level) hs.toSelects hs.stateful (stdCsr_active hs r fn src)

end MandatoryCsr

end Sys2Proof.Machine
end

/-! ### The fields of `scxs_status` (R53, R243) -/

section
namespace Sys2Proof.Machine

section StatusFields

variable (cs : BitVec 2) (rst : Bool) (size : BitVec 16)

theorem scxsStatusWord_toNat :
    (scxsStatusWord cs rst size).toNat = cs.toNat * 2 ^ 27 + rst.toNat * 2 ^ 26 + size.toNat := by
  have csBound := cs.isLt
  have sizeBound := size.isLt
  have rstBound := rst.toNat_lt
  rw [scxsStatusWord, zextX, BitVec.toNat_setWidth]
  simp only [append_toNat, BitVec.toNat_ofBool, BitVec.toNat_ofNat]
  omega

theorem csField_scxsStatusWord : csField (scxsStatusWord cs rst size) = cs := by
  have csBound := cs.isLt
  have sizeBound := size.isLt
  have rstBound := rst.toNat_lt
  apply BitVec.eq_of_toNat_eq
  rw [csField, field_toNat, scxsStatusWord_toNat]
  omega

theorem rstField_scxsStatusWord : rstField (scxsStatusWord cs rst size) = rst := by
  have sizeBound := size.isLt
  rw [rstField, BitVec.getLsbD, Nat.testBit_eq_decide_div_mod_eq, scxsStatusWord_toNat]
  cases rst <;> simp <;> omega

/-- The version and the reserved fields are zero (R53). -/
theorem scxsStatusWord_reserved : (scxsStatusWord cs rst size).extractLsb' 16 10 = 0#10 ∧
    (scxsStatusWord cs rst size).extractLsb' 29 35 = 0#35 := by
  have csBound := cs.isLt
  have sizeBound := size.isLt
  have rstBound := rst.toNat_lt
  constructor <;>
    (apply BitVec.eq_of_toNat_eq
     rw [field_toNat, scxsStatusWord_toNat, BitVec.toNat_ofNat]
     omega)

/-- Of the word of a context that is off, nothing but the size is not zero (R248). -/
theorem scxsStatusWord_off : (scxsStatusWord 0 false size).extractLsb' 16 48 = 0#48 := by
  have sizeBound := size.isLt
  apply BitVec.eq_of_toNat_eq
  rw [field_toNat, scxsStatusWord_toNat]
  simp
  omega

/-- A register that holds the word reads as it at either XLEN. -/
theorem xr_of_holds_scxsStatusWord {t : State} {rd : Reg} (held : t.holds rd (scxsStatusWord cs rst size))
    (real : rd ≠ 0) : t.xr rd = scxsStatusWord cs rst size := by
  unfold State.holds at held
  rw [held, if_neg real]
  exact norm_zextX32 _ _

end StatusFields

section OffFields

variable {fn : CsrFn} (size : BitVec 16) (src : Word)

/-- Writing or setting bits over a word with `cs` = 0 and `rst` = 0 leaves the two fields of the operand (R184). -/
theorem accessed_off_fields (writes : fn = .write ∨ fn = .set) :
    rstField (accessed fn (scxsStatusWord 0 false size) src) = rstField src ∧
      csField (accessed fn (scxsStatusWord 0 false size) src) = csField src := by
  have rst := rstField_scxsStatusWord 0 false size
  have cs := csField_scxsStatusWord 0 false size
  rcases writes with rfl | rfl
  · exact ⟨rfl, rfl⟩
  · simp only [rstField, csField] at rst cs ⊢
    simp only [accessed, BitVec.getLsbD_or, BitVec.extractLsb'_or, rst, cs]
    simp

/-- Clearing bits of such a word leaves them 0 (R184). -/
theorem cleared_off_fields :
    rstField (accessed .clear (scxsStatusWord 0 false size) src) = false ∧
      csField (accessed .clear (scxsStatusWord 0 false size) src) = 0 := by
  have rst := rstField_scxsStatusWord 0 false size
  have cs := csField_scxsStatusWord 0 false size
  simp only [rstField, csField] at rst cs ⊢
  simp only [accessed, BitVec.getLsbD_and, BitVec.extractLsb'_and, rst, cs]
  simp

end OffFields

end Sys2Proof.Machine
end

/-! ### The mandatory CX CSRs on an active context (R241, R243, R247, R252 to R256) and `cx_write_status` (R284) -/

section
namespace Sys2Proof.Machine

variable {s : State} {cx : ExtConfig} {c i : BitVec 8}

section Error

variable (fn : CsrFn) (src : Word)

theorem stdCsrActive_error_data : (s.stdCsrActive cx c i .error fn src).1 = (s.ctx cx c i).error := by
  unfold State.stdCsrActive
  dsimp only
  split <;> rfl

theorem ctx_stdCsrActive_error : (s.stdCsrActive cx c i .error fn src).2.ctx cx c i =
    if fn = .read then s.ctx cx c i
    else { s.ctx cx c i with error := cx.errBits s.cfg.xlen (accessed fn (s.ctx cx c i).error src) } := by
  unfold State.stdCsrActive
  dsimp only
  split
  · rfl
  · rw [ctx_setCtx_same, csrNew_eq_accessed]

end Error

/-- Settles O48: the error is read, and a write keeps its implemented bits. -/
theorem cxsErrorAccess : Obligations.CxsErrorAccess := by
  intro s i rd fn src cx form hs
  obtain ⟨t, run, advanced, held, ctx⟩ := completes_activeCsr (r := .error) form (.inl rfl) hs
  rw [stdCsrActive_error_data] at held
  rw [ctx_stdCsrActive_error] at ctx
  exact ⟨t, run, advanced, held, ctx⟩

section Index

variable (fn : CsrFn) (src : Word)

theorem stdCsrActive_index_data : (s.stdCsrActive cx c i .index fn src).1 = (s.ctx cx c i).indexRead := by
  unfold State.stdCsrActive
  dsimp only
  split <;> rfl

/-- An index that is not below the size is zeroed (R253). -/
theorem indexWrite_eq (k : Ctx) (v : Word) : k.indexWrite cx v = { k with
    incr := v.getLsbD 31
    index := if (cx.size k.st).toNat ≤ (keepLow16 cx.indexW (low16 v)).toNat then 0
      else keepLow16 cx.indexW (low16 v) } := by
  simp only [Ctx.indexWrite, Ctx.size, BitVec.lt_def]
  by_cases below : (keepLow16 cx.indexW (low16 v)).toNat < (cx.size k.st).toNat
  · rw [if_pos below, if_neg (Nat.not_le.mpr below)]
  · rw [if_neg below, if_pos (Nat.not_lt.mp below)]

theorem ctx_stdCsrActive_index : (s.stdCsrActive cx c i .index fn src).2.ctx cx c i =
    if fn = .read then s.ctx cx c i
    else (s.ctx cx c i).indexWrite cx (accessed fn (s.ctx cx c i).indexRead src) := by
  unfold State.stdCsrActive
  dsimp only
  split
  · rfl
  · rw [ctx_setCtx_same, csrNew_eq_accessed]

end Index

/-- Settles O50: the word is read, and a write stores `incr` and the index if it is below the size. -/
theorem scxsIndexAccess : Obligations.ScxsIndexAccess := by
  rintro s i rd fn src old v k cx form level hs rfl rfl rfl
  obtain ⟨t, run, advanced, held, ctx⟩ := completes_activeCsr (r := .index) form (.inr level) hs
  rw [stdCsrActive_index_data] at held
  rw [ctx_stdCsrActive_index, indexWrite_eq] at ctx
  exact ⟨t, run, advanced, held, ctx⟩

section Status

variable (fn : CsrFn) (src : Word) {v : Word}

theorem stdCsrActive_status_data : (s.stdCsrActive cx c i .status fn src).1 = (s.ctx cx c i).statusRead cx := by
  unfold State.stdCsrActive
  dsimp only
  split <;> rfl

theorem stdCsrActive_status_state : (s.stdCsrActive cx c i .status fn src).2 =
    if fn = .read then s else s.statusWrite cx c i (accessed fn ((s.ctx cx c i).statusRead cx) src) := by
  unfold State.stdCsrActive
  dsimp only
  rw [csrNew_eq_accessed]
  split <;> rfl

/-- A written `rst` = 1 starts a reset (R247, R250). -/
theorem ctx_statusWrite_reset (idle : (s.ctx cx c i).rst = false) (rst : rstField v = true) :
    ∃ n, (s.statusWrite cx c i v).ctx cx c i = { s.ctx cx c i with rst := true, stepsLeft := n } := by
  refine ⟨Config.freeResetSteps s.draws, ?_⟩
  unfold State.statusWrite
  dsimp only
  rw [if_pos rst, ctx_setCtxDrawn_same, startReset_idle idle]

/-- A written `cs` = 0 turns the context off, with a content nothing constrains (R247, R251). -/
theorem ctx_statusWrite_off (rst : rstField v = false) (off : csField v = 0) :
    ∃ st err, (s.statusWrite cx c i v).ctx cx c i = { s.ctx cx c i with cs := .off, st := st, error := err } := by
  refine ⟨cx.sizeWrite (cx.holds (Config.freeCxState s.draws)) (low16 v), cx.errBits s.cfg.xlen s.free, ?_⟩
  unfold State.statusWrite
  dsimp only
  rw [if_neg (Bool.eq_false_iff.mp rst), if_pos off, ctx_setCtxDrawn_same]
  rfl

/-- Any other written `cs` is stored, and the size is handed to the extension (R245, R247). -/
theorem ctx_statusWrite_on (rst : rstField v = false) {cs : CtxStatus} (on : cs ≠ .off) (hcs : csField v = cs.bits) :
    (s.statusWrite cx c i v).ctx cx c i =
      { s.ctx cx c i with cs := cs, st := cx.sizeWrite (s.ctx cx c i).st (low16 v) } := by
  have filled : csField v ≠ 0 := by
    rw [hcs]
    cases cs with
    | off => exact absurd rfl on
    | initial => decide
    | clean => decide
    | dirty => decide
  unfold State.statusWrite
  dsimp only
  rw [if_neg (Bool.eq_false_iff.mp rst), if_neg filled, ctx_setCtx_same, hcs, ctxStatusOf_bits]

/-- The word read from a context with no reset in progress (R243). -/
theorem statusRead_idle {k : Ctx} (idle : k.rst = false) :
    k.statusRead cx = (0#3 ++ k.cs.bits ++ 0#1 ++ 0#10 ++ cx.size k.st).setWidth 64 := by
  unfold Ctx.statusRead
  rw [idle]
  rfl

end Status

/-- Settles O49: the written `rst` and `cs` select among the three effects of a write. -/
theorem scxsStatusAccess : Obligations.ScxsStatusAccess := by
  rintro s i rd fn src old v cx form level hs hold rfl
  rw [← statusRead_idle hs.idle] at hold
  subst hold
  obtain ⟨t, run, advanced, held, ctx⟩ := completes_activeCsr (r := .status) form (.inr level) hs
  rw [stdCsrActive_status_data] at held
  rw [stdCsrActive_status_state] at ctx
  refine ⟨t, run, advanced, held, fun reads => ?_, fun writes rst => ?_, fun writes rst off => ?_,
    fun writes rst cs on hcs => ?_⟩
  · rw [ctx, if_pos reads]
    rfl
  · rw [ctx, if_neg writes]
    exact ctx_statusWrite_reset hs.idle rst
  · rw [ctx, if_neg writes]
    exact ctx_statusWrite_off rst off
  · rw [ctx, if_neg writes]
    exact ctx_statusWrite_on rst on hcs

section Data

variable (fn : CsrFn) (src : Word)

theorem dataAccess_below (below : (s.ctx cx c i).index.toNat < (cx.size (s.ctx cx c i).st).toNat) :
    (s.dataAccess cx c i fn src).1 = norm s.cfg.xlen (cx.saveWord (s.ctx cx c i).st (s.ctx cx c i).index.toNat) := by
  simp [State.dataAccess, Ctx.size, below]

/-- The index after an access: with `incr` it moves on by one, to 0 at the size (R254, R256). -/
theorem bumpIndex_eq (k : Ctx) : k.bumpIndex cx = { k with
    index := if k.incr = false then k.index
      else if (cx.size k.st).toNat ≤ k.index.toNat + 1 then 0
      else keepLow16 cx.indexW (k.index + 1) } := by
  unfold Ctx.bumpIndex Ctx.size
  by_cases moves : k.incr = true
  · have notStill : ¬k.incr = false := by simp [moves]
    rw [if_pos moves, if_neg notStill]
    by_cases room : k.index.toNat + 1 < (cx.size k.st).toNat
    · rw [if_pos room, if_neg (Nat.not_le.mpr room)]
    · rw [if_neg room, if_pos (Nat.not_lt.mp room)]
  · rw [if_neg moves, if_pos (Bool.eq_false_iff.mpr moves)]

/-- The context after an access: a write below the size replaces the word and makes the context dirty, any other access
changes neither, and then the index moves on (R254 to R256). -/
theorem ctx_dataAccess {st : CxState} {cs : CtxStatus}
    (content : (st, cs) =
      if fn ≠ .read ∧ (s.ctx cx c i).index.toNat < (cx.size (s.ctx cx c i).st).toNat
      then (cx.loadWord (s.ctx cx c i).st (s.ctx cx c i).index.toNat (norm s.cfg.xlen (accessed fn
        (norm s.cfg.xlen (cx.saveWord (s.ctx cx c i).st (s.ctx cx c i).index.toNat)) src)), CtxStatus.dirty)
      else ((s.ctx cx c i).st, (s.ctx cx c i).cs)) :
    (s.dataAccess cx c i fn src).2.ctx cx c i = Ctx.bumpIndex cx { s.ctx cx c i with st := st, cs := cs } := by
  unfold State.dataAccess Ctx.size
  dsimp only
  by_cases below : (s.ctx cx c i).index.toNat < (cx.size (s.ctx cx c i).st).toNat
  · rw [if_pos below, ctx_setCtx_same, csrNew_eq_accessed]
    by_cases reads : fn = .read
    · rw [if_neg (fun h => h.1 reads)] at content
      obtain ⟨rfl, rfl⟩ := Prod.mk.inj content
      rw [if_pos reads]
    · rw [if_pos ⟨reads, below⟩] at content
      obtain ⟨rfl, rfl⟩ := Prod.mk.inj content
      rw [if_neg reads]
  · rw [if_neg (fun h => below h.2)] at content
    obtain ⟨rfl, rfl⟩ := Prod.mk.inj content
    rw [if_neg below, ctx_setCtxDrawn_same]

end Data

/-- Settles O51: what the access makes of the content, then of the index. -/
theorem scxsDataAccess : Obligations.ScxsDataAccess := by
  rintro s i rd fn src old st cs cx form level hs rfl content
  obtain ⟨t, run, advanced, held, ctx⟩ := completes_activeCsr (r := .data) form (.inr level) hs
  refine ⟨t, run, advanced, fun below => ?_, ?_⟩
  · have read : (s.stdCsrActive cx s.selected.1 s.selected.2 .data fn src).1 = _ := dataAccess_below fn src below
    rwa [read] at held
  · rw [ctx]
    exact (ctx_dataAccess fn src content).trans (bumpIndex_eq _)

section WriteStatus

variable {d0 : Word}

/-- `cs` = 1 starts a reset (R250, R284). -/
theorem ctx_writeStatus_reset (idle : (s.ctx cx c i).rst = false) (initial : (statusUnpack s.cfg d0).1 = 1#2) :
    ∃ n, (s.writeStatus cx c i d0).ctx cx c i = { s.ctx cx c i with rst := true, stepsLeft := n } := by
  refine ⟨Config.freeResetSteps s.draws, ?_⟩
  unfold State.writeStatus
  dsimp only
  rw [initial]
  exact (ctx_setCtxDrawn_same s cx c i _).trans (startReset_idle idle _)

/-- `cs` = 0 turns the context off, with a content nothing constrains (R251, R284). -/
theorem ctx_writeStatus_off (off : (statusUnpack s.cfg d0).1 = 0#2) :
    ∃ st err, (s.writeStatus cx c i d0).ctx cx c i = { s.ctx cx c i with cs := .off, st := st, error := err } := by
  refine ⟨cx.holds (Config.freeCxState s.draws), cx.errBits s.cfg.xlen s.free, ?_⟩
  unfold State.writeStatus
  dsimp only
  rw [off]
  exact ctx_setCtxDrawn_same s cx c i _

/-- `cs` = 2 and 3 store status and error, and the size is handed to the extension (R284). -/
theorem ctx_writeStatus_on {cs : CtxStatus}
    (on : ((statusUnpack s.cfg d0).1 = 2#2 ∧ cs = .clean) ∨ ((statusUnpack s.cfg d0).1 = 3#2 ∧ cs = .dirty)) :
    (s.writeStatus cx c i d0).ctx cx c i = { s.ctx cx c i with
      cs := cs
      error := cx.errBits s.cfg.xlen (statusUnpack s.cfg d0).2.2
      st := cx.sizeWrite (s.ctx cx c i).st (statusUnpack s.cfg d0).2.1 } := by
  unfold State.writeStatus
  dsimp only
  rcases on with ⟨written, rfl⟩ | ⟨written, rfl⟩ <;> rw [written] <;> exact ctx_setCtx_same s cx c i _

end WriteStatus

/-- Settles O45: the standard function answers with the previous word, and the written `cs` selects its effect. -/
theorem writeStatusResult : Obligations.WriteStatusResult := by
  intro s i d0 d1 dest cx distinct form hs
  obtain ⟨t, run, advanced, held, ctx⟩ := completes_standardCf form hs (stdFn?_writeStatus distinct) rfl
  change t.selectedCtx cx = (s.writeStatus cx _ _ d0).ctx cx _ _ at ctx
  refine ⟨t, run, advanced, held, ?_⟩
  rw [ctx]
  exact ⟨ctx_writeStatus_reset hs.idle, ctx_writeStatus_off, fun _ => ctx_writeStatus_on⟩

end Sys2Proof.Machine
end

/-! ### The mandatory CX CSRs of a context that is off or in reset (R248) -/

section
namespace Sys2Proof.Machine

section Resetting

variable {s : State}

/-- While a reset is in progress an access draws its value and does nothing else (R248). -/
theorem stdCsrResetting_state (r : StdCsr) : (s.stdCsrResetting r).2 = s.drawn := by cases r <;> rfl

/-- The status then reads `rst` = 1, with `cs` and the size drawn (R248). -/
theorem stdCsrResetting_status_data : (s.stdCsrResetting .status).1 =
    scxsStatusWord (s.free.extractLsb' 16 2) true (low16 s.free) := rfl

end Resetting

/-- Settles O52: the value is drawn, and nothing that software sees changes but the destination. -/
theorem resettingContextAccess : Obligations.ResettingContextAccess := by
  intro s i a rd fn src cx form mandatory hp hs stateful rst
  obtain ⟨r, rfl⟩ := exists_stdCsr_addr mandatory
  have run := exec_mandatoryCsr form hp hs stateful (stdCsr_resetting rst r fn src)
  rw [stdCsrResetting_state] at run
  refine ⟨_, run, (advanced_setX (.refl s.drawn) rfl rfl rd _).of_drawn, fun status real => ?_⟩
  obtain rfl : r = .status := StdCsr.addr_inj status
  rw [stdCsrResetting_status_data, xr_of_holds_scxsStatusWord _ _ _ (holds_setX_advance _ rd _) real]
  exact ⟨rstField_scxsStatusWord _ _ _, scxsStatusWord_reserved _ _ _⟩

section Off

variable {s : State} {cx : ExtConfig} {c i : BitVec 8} {fn : CsrFn} {src : Word}

theorem stdCsrOff_status_data :
    (s.stdCsrOff cx c i .status fn src).1 = scxsStatusWord 0 false (low16 s.free) := by
  unfold State.stdCsrOff
  dsimp only
  split_ifs <;> rfl

/-- A read of the status of a context that is off, and a clear, which finds nothing to clear, leave the context (R248). -/
theorem ctx_stdCsrOff_status_keep (keeps : fn = .read ∨ fn = .clear) :
    (s.stdCsrOff cx c i .status fn src).2.ctx cx c i = s.ctx cx c i := by
  unfold State.stdCsrOff
  dsimp only
  rcases keeps with rfl | rfl
  · rfl
  · obtain ⟨rst, cs⟩ := cleared_off_fields (low16 s.free) src
    rw [csrNew_eq_accessed, if_neg (by decide), if_neg (Bool.eq_false_iff.mp rst), if_pos cs]
    rfl

/-- A written `rst` = 1 starts a reset of a context that is off (R248, R250). -/
theorem ctx_stdCsrOff_status_reset (writes : fn = .write ∨ fn = .set) (idle : (s.ctx cx c i).rst = false)
    (reset : rstField src = true) :
    ∃ n, (s.stdCsrOff cx c i .status fn src).2.ctx cx c i = { s.ctx cx c i with rst := true, stepsLeft := n } := by
  obtain ⟨rst, _⟩ := accessed_off_fields (low16 s.free) src writes
  have notRead : fn ≠ .read := by rintro rfl; simp at writes
  refine ⟨Config.freeResetSteps s.draws, ?_⟩
  unfold State.stdCsrOff
  dsimp only
  rw [csrNew_eq_accessed, if_neg notRead, if_pos (rst.trans reset)]
  exact (ctx_setCtxDrawn_same s cx c i _).trans (startReset_idle idle _)

/-- A written `cs` is stored, which turns the context on or leaves it off (R248). -/
theorem ctx_stdCsrOff_status_on (writes : fn = .write ∨ fn = .set) (off : (s.ctx cx c i).cs = .off)
    (noReset : rstField src = false) {cs : CtxStatus} (hcs : csField src = cs.bits) :
    (s.stdCsrOff cx c i .status fn src).2.ctx cx c i = { s.ctx cx c i with cs := cs } := by
  obtain ⟨rst, field⟩ := accessed_off_fields (low16 s.free) src writes
  have notRead : fn ≠ .read := by rintro rfl; simp at writes
  unfold State.stdCsrOff
  dsimp only
  rw [csrNew_eq_accessed, if_neg notRead, if_neg (Bool.eq_false_iff.mp (rst.trans noReset)), field, hcs]
  split
  · next zero =>
    obtain rfl : cs = .off := by rw [← ctxStatusOf_bits cs, zero]; rfl
    rw [← off]
    rfl
  · exact (ctx_setCtxDrawn_same s cx c i _).trans (by rw [ctxStatusOf_bits])

/-- `cxs_error` is accessed as on an active context (R241, R248). -/
theorem stdCsrOff_error : s.stdCsrOff cx c i .error fn src = s.stdCsrActive cx c i .error fn src := rfl

theorem stdCsrOff_index_data : (s.stdCsrOff cx c i .index fn src).1 = (s.ctx cx c i).indexRead := by
  unfold State.stdCsrOff
  dsimp only
  split <;> rfl

theorem ctx_stdCsrOff_index_write (writes : fn ≠ .read) :
    ∃ k, (s.stdCsrOff cx c i .index fn src).2.ctx cx c i = { s.ctx cx c i with
      incr := (accessed fn (s.ctx cx c i).indexRead src).getLsbD 31
      index := k } := by
  refine ⟨keepLow16 cx.indexW (low16 s.free), ?_⟩
  unfold State.stdCsrOff
  dsimp only
  rw [if_neg writes, ctx_setCtxDrawn_same, csrNew_eq_accessed]

end Off

/-- Settles O53: one answer for the four CSRs, and for each the word read and the effect on the context. -/
theorem offContextAccess : Obligations.OffContextAccess := by
  intro s i a rd fn src cx form mandatory hp hs stateful idle off
  obtain ⟨r, rfl⟩ := exists_stdCsr_addr mandatory
  obtain ⟨t, run, advanced, held, ctx⟩ :=
    completes_mandatoryCsr form hp hs stateful (stdCsr_off idle off r fn src)
  refine ⟨t, run, advanced, fun status => ?_, fun error => ?_, fun index => ?_, fun data => ?_⟩
  · obtain rfl : r = .status := StdCsr.addr_inj status
    rw [stdCsrOff_status_data] at held
    rw [ctx]
    refine ⟨fun real => ?_, ctx_stdCsrOff_status_keep, fun writes =>
      ⟨ctx_stdCsrOff_status_reset writes idle, fun rst cs => ctx_stdCsrOff_status_on writes off rst⟩⟩
    rw [xr_of_holds_scxsStatusWord _ _ _ held real]
    exact scxsStatusWord_off _
  · obtain rfl : r = .error := StdCsr.addr_inj error
    rw [stdCsrOff_error, stdCsrActive_error_data] at held
    rw [stdCsrOff_error, ctx_stdCsrActive_error] at ctx
    exact ⟨held, ctx⟩
  · obtain rfl : r = .index := StdCsr.addr_inj index
    rw [stdCsrOff_index_data] at held
    rw [ctx]
    refine ⟨held, ?_, ctx_stdCsrOff_index_write⟩
    rintro rfl
    rfl
  · obtain rfl : r = .data := StdCsr.addr_inj data
    exact ctx

end Sys2Proof.Machine
end

/-! ### The resets in progress (R249) -/

section
namespace Sys2Proof.Machine

/-- What the passing of a step makes of one context: a reset in progress counts down, then completes (R249). -/
def Ctx.tick (cx : ExtConfig) (k : Ctx) : Ctx :=
  if k.rst then
    match k.stepsLeft with
    | n + 1 => { k with stepsLeft := n }
    | 0 => k.completeReset cx
  else k

section Context

variable {cx : ExtConfig} {k : Ctx}

theorem Ctx.tick_idle (idle : k.rst = false) : k.tick cx = k := by simp [Ctx.tick, idle]

theorem Ctx.tick_counting {n : Nat} (rst : k.rst = true) (left : k.stepsLeft = n + 1) :
    k.tick cx = { k with stepsLeft := n } := by simp [Ctx.tick, rst, left]

theorem Ctx.tick_complete (rst : k.rst = true) (left : k.stepsLeft = 0) : k.tick cx = Ctx.powerUp cx := by
  simp [Ctx.tick, rst, left, Ctx.completeReset, Ctx.powerUp]

/-- A reset with `n` steps left has none left after `n` steps, and is still in progress. -/
theorem Ctx.tick_iterate (n : Nat) (rst : k.rst = true) (left : k.stepsLeft = n) :
    (Ctx.tick cx)^[n] k = { k with stepsLeft := 0 } := by
  induction n generalizing k with
  | zero =>
    change k = _
    rw [← left]
  | succ n ih =>
    rw [Function.iterate_succ_apply, Ctx.tick_counting rst left]
    exact ih rst rfl

end Context

section Tick

variable {s : State} {cx : ExtConfig} {c : BitVec 8}

/-- A value looked up in a list whose values, and not keys, have been changed. -/
theorem Cells.get_map {α : Type} {g : Nat × α → Nat × α} (keys : ∀ e, (g e).1 = e.1) (l : List (Nat × α)) (a : Nat) :
    Cells.get (l.map g) a = (Cells.get l a).map fun v => (g (a, v)).2 := by
  induction l with
  | nil => rfl
  | cons e l ih =>
    obtain ⟨key, v⟩ := e
    have same : g (key, v) = (key, (g (key, v)).2) := Prod.ext (keys _) rfl
    rw [List.map_cons, same, Cells.get, Cells.get]
    split
    · next found => rw [found]; rfl
    · exact ih

/-- A listed context of a configured extension ticks as a context. -/
theorem tickCtx_ctxKey {cfg : Config} (hc : cxuOf cfg c = some cx) (i : BitVec 8) (k : Ctx) :
    (tickCtx cfg (ctxKey c i, k)).2 = k.tick cx := by
  obtain ⟨named, _⟩ := ctxKey_div c i
  unfold tickCtx Ctx.tick
  dsimp only
  rw [named, BitVec.ofNat_toNat, BitVec.setWidth_eq, hc]
  split
  · cases k.stepsLeft <;> rfl
  · rfl

/-- The passing of a step ticks every context, listed or not (R249). -/
theorem ctx_tick (hc : cxuOf s.cfg c = some cx) (i : BitVec 8) : s.tick.ctx cx c i = (s.ctx cx c i).tick cx := by
  unfold State.ctx
  rw [tick_ctxs, Cells.get_map (tickCtx_key s.cfg)]
  cases Cells.get s.ctxs (ctxKey c i) with
  | none => rfl
  | some k => exact tickCtx_ctxKey hc i k

theorem ctx_tick_iterate (hc : cxuOf s.cfg c = some cx) (i : BitVec 8) (n : Nat) :
    (State.tick^[n] s).ctx cx c i = (Ctx.tick cx)^[n] (s.ctx cx c i) := by
  induction n generalizing s with
  | zero => rfl
  | succ n ih =>
    have configured : cxuOf s.tick.cfg c = some cx := hc
    rw [Function.iterate_succ_apply, Function.iterate_succ_apply, ih configured, ctx_tick hc]

end Tick

/-- Settles O54: the steps left are counted down by induction, and the step after the last restores the power-up state. -/
theorem resetsComplete : Obligations.ResetsComplete := by
  intro s cx c i hc
  refine ⟨fun idle => (ctx_tick hc i).trans (Ctx.tick_idle idle), fun rst => ?_⟩
  have counted := Ctx.tick_iterate (cx := cx) _ rst rfl
  constructor
  · rw [ctx_tick_iterate hc, counted]
  · rw [ctx_tick_iterate hc, Function.iterate_succ_apply', counted]
    exact Ctx.tick_complete rst rfl

end Sys2Proof.Machine
end

/-! ### The standard custom functions that read, and the one that writes a word (R283, R285, R286) -/

section
namespace Sys2Proof.Machine

section StandardNumbers

variable {cfg : Config}

theorem stdFn?_readStatus (cfg : Config) : stdFn? cfg cfg.cfReadStatus = some .readStatus := if_pos rfl

theorem stdFn?_readState (distinct : cfg.standardCfsDistinct = true) :
    stdFn? cfg cfg.cfReadState = some .readState := by
  obtain ⟨_, ⟨notReadStatus, notWriteStatus⟩, _⟩ := standardCfs_distinct distinct
  simp [stdFn?, notReadStatus, notWriteStatus]

theorem stdFn?_writeState (distinct : cfg.standardCfsDistinct = true) :
    stdFn? cfg cfg.cfWriteState = some .writeState := by
  obtain ⟨_, _, notReadStatus, notWriteStatus, notReadState⟩ := standardCfs_distinct distinct
  simp [stdFn?, notReadStatus, notWriteStatus, notReadState]

end StandardNumbers

section Reads

variable {s : State} {cx : ExtConfig} {i : Instr} {f : CfId} {d0 d1 : Word} {dest : Option Reg}

/-- A standard custom function whose answer leaves the list of contexts completes, and no context changes, the selected
one neither (R287). -/
theorem completes_readingCf {fn : StdFn} (form : CfForm s i f d0 d1 dest) (hs : SelectsActive s cx)
    (std : stdFn? s.cfg f = some fn) {p : Word × State}
    (answer : s.stdCf cx s.selected.1 s.selected.2 fn d0 d1 = p) (kept : p.2.ctxs = s.ctxs) :
    ∃ t, exec i s = .next t ∧ Advanced s t (destRegs dest) [] [] [] ∧ t.destHolds dest p.1 := by
  have updated : CtxUpdate s s.selected.1 s.selected.2 p.2 := answer ▸ stdCf_update s cx _ _ fn d0 d1
  refine ⟨_, exec_standardCf form hs std answer, ?_, destHolds_answer p.2 none dest p.1⟩
  exact { updated.advanced_ok dest p.1 with
    ctxs := fun cx' c k _ => by simp [State.ctx, kept] }

/-- A destination that holds the XLEN bits of a value holds the value (R12). -/
theorem destHolds_of_norm {t : State} {v : Word} (cfg : t.cfg = s.cfg)
    (held : t.destHolds dest (norm s.cfg.xlen v)) : t.destHolds dest v := by
  intro rd hd
  simpa [State.holds, cfg] using held rd hd

end Reads

/-- Settles O44: the answer is the state status word, and the state it comes with is the one before. -/
theorem readStatusResult : Obligations.ReadStatusResult := by
  intro s i d0 d1 dest cx form hs
  exact completes_readingCf form hs (stdFn?_readStatus s.cfg) rfl rfl

section StateWords

variable {s : State} {cx : ExtConfig} {c i : BitVec 8} {d0 : Word}

/-- Below the size the word of the save data is read (R285). -/
theorem readState_below (below : d0.toNat < (cx.size (s.ctx cx c i).st).toNat) :
    (s.readState cx c i d0).1 = norm s.cfg.xlen (cx.saveWord (s.ctx cx c i).st d0.toNat) := by
  simp [State.readState, Ctx.size, below]

/-- A read leaves every context, below the size and at or above it, where it draws its value (R285). -/
theorem readState_ctxs : (s.readState cx c i d0).2.ctxs = s.ctxs := by
  unfold State.readState
  dsimp only
  split
  · rfl
  · exact drawn_ctxs s

/-- Below the size the word is replaced and the context is dirty; at or above it the write is dropped (R286). -/
theorem ctx_writeState (d1 : Word) : (s.writeState cx c i d0 d1).ctx cx c i =
    if d0.toNat < (cx.size (s.ctx cx c i).st).toNat then
      { s.ctx cx c i with st := cx.loadWord (s.ctx cx c i).st d0.toNat d1, cs := .dirty }
    else s.ctx cx c i := by
  unfold State.writeState Ctx.size
  dsimp only
  split
  · exact ctx_setCtx_same s cx c i _
  · rfl

end StateWords

/-- Settles O46: no context changes whatever the index, and below the size the answer is the word. -/
theorem readStateResult : Obligations.ReadStateResult := by
  intro s i d0 d1 dest cx distinct form hs
  obtain ⟨t, run, advanced, held⟩ := completes_readingCf form hs (stdFn?_readState distinct) rfl readState_ctxs
  refine ⟨t, run, advanced, fun below => destHolds_of_norm advanced.cfg ?_⟩
  have read : (s.stdCf cx s.selected.1 s.selected.2 .readState d0 d1).1 =
      norm s.cfg.xlen (cx.saveWord (s.selectedCtx cx).st d0.toNat) := readState_below below
  rwa [read] at held

/-- Settles O47: the answer is the written word, and the effect on the selected context is that of `ctx_writeState`. -/
theorem writeStateResult : Obligations.WriteStateResult := by
  intro s i d0 d1 dest cx distinct form hs
  obtain ⟨t, run, advanced, held, ctx⟩ := completes_standardCf form hs (stdFn?_writeState distinct) rfl
  exact ⟨t, run, advanced, held, ctx.trans (ctx_writeState d1)⟩

end Sys2Proof.Machine
end

/-! ### Loads and stores that raise an exception (R303, R311 to R314, R318, R324) -/

section
namespace Sys2Proof.Machine

section Accesses

variable {s : State} {a : Word} {n : Nat}

/-- A misaligned load raises its exception before protection is asked (R318). -/
theorem loadTo_misaligned (off : a.toNat % n ≠ 0) (rd : Reg) (value : Word) :
    s.loadTo rd a n value = s.takeTrap .loadMisaligned a := by
  have notAligned : aligned a n = false := beq_eq_false_iff_ne.mpr off
  unfold State.loadTo
  rw [notAligned]
  rfl

/-- A misaligned store raises its exception before protection is asked, and stores nothing (R318). -/
theorem storeTo_misaligned (off : a.toNat % n ≠ 0) (stored : State) :
    s.storeTo a n stored = s.takeTrap .storeMisaligned a := by
  have notAligned : aligned a n = false := beq_eq_false_iff_ne.mpr off
  unfold State.storeTo
  rw [notAligned]
  rfl

/-- An aligned load that protection refuses raises the exception of the refusal (R311, R324). -/
theorem loadTo_refused {v : MemVerdict} (onBoundary : a.toNat % n = 0) (refused : v ≠ .allowed)
    (verdict : memCheck s.cfg s.priv a n .load = v) (rd : Reg) (value : Word) :
    s.loadTo rd a n value = s.takeTrap (loadFaultCause v) a := by
  have isAligned : aligned a n = true := beq_iff_eq.mpr onBoundary
  unfold State.loadTo
  rw [isAligned, verdict]
  cases v with
  | allowed => exact absurd rfl refused
  | accessFault => rfl
  | pageFault => rfl

/-- An aligned store that protection refuses raises an access fault, by paging or not, and stores nothing (R313, R324). -/
theorem storeTo_refused {v : MemVerdict} (onBoundary : a.toNat % n = 0) (refused : v ≠ .allowed)
    (verdict : memCheck s.cfg s.priv a n .store = v) (stored : State) :
    s.storeTo a n stored = s.takeTrap .storeAccess a := by
  have isAligned : aligned a n = true := beq_iff_eq.mpr onBoundary
  unfold State.storeTo
  rw [isAligned, verdict]
  cases v with
  | allowed => exact absurd rfl refused
  | accessFault => rfl
  | pageFault => rfl

/-- The code of a refused load: 13 for a refusal by paging, 5 for any other (R303). -/
theorem loadFaultCause_code (v : MemVerdict) :
    (loadFaultCause v).code = if v = .pageFault then 13 else 5 := by cases v <;> rfl

end Accesses

section Instructions

variable {s t : State} {i : Instr}

/-- An instruction that takes an exception enters it (R344). -/
theorem traps_of_takeTrap {cause : TrapCause} {tval : Word} (run : exec i s = .next t)
    (taken : t = s.takeTrap cause tval) :
    ∃ t, exec i s = .next t ∧ TrapEntered s t cause.code (some tval) :=
  ⟨t, run, taken ▸ takeTrap_entered s cause tval⟩

/-- An instruction that is illegal raises illegal-instruction (R343). -/
theorem traps_of_illegal {insn : Insn} (run : exec i s = .next (s.illegal insn)) :
    ∃ t, exec i s = .next t ∧ TrapEntered s t 2 (some (s.illegalTval insn)) :=
  ⟨_, run, illegal_entered s insn⟩

variable (narrow : s.cfg.xlen = .rv32)
include narrow

/-- Where XLEN = 32 there is no `ld` (R312). -/
theorem exec_ld_narrow (rd rs1 : Reg) (imm : BitVec 12) :
    exec (.ld rd rs1 imm) s = .next (s.illegal (encode s.cfg (.ld rd rs1 imm))) := by
  change execLd rd rs1 imm s = _
  unfold execLd
  rw [narrow]

/-- Where XLEN = 32 there is no `sd` (R314). -/
theorem exec_sd_narrow (rs1 rs2 : Reg) (imm : BitVec 12) :
    exec (.sd rs1 rs2 imm) s = .next (s.illegal (encode s.cfg (.sd rs1 rs2 imm))) := by
  change execSd rs1 rs2 imm s = _
  unfold execSd
  rw [narrow]

end Instructions

/-- Settles O19: the word forms, then the doubleword forms, each misaligned and refused; last the forms XLEN = 32 lacks. -/
theorem loadStoreExceptions : Obligations.LoadStoreExceptions := by
  intro s r rs1 imm v
  rw [← loadFaultCause_code v]
  refine ⟨fun off => ⟨?_, ?_⟩, fun onBoundary refused => ⟨fun verdict => ?_, fun verdict => ?_⟩,
    fun wide off => ⟨?_, ?_⟩, fun wide onBoundary refused => ⟨fun verdict => ?_, fun verdict => ?_⟩,
    fun narrow => ⟨?_, ?_⟩⟩
  · exact traps_of_takeTrap (exec_lw s r rs1 imm) (loadTo_misaligned off r _)
  · exact traps_of_takeTrap (exec_sw s rs1 r imm) (storeTo_misaligned off _)
  · exact traps_of_takeTrap (exec_lw s r rs1 imm) (loadTo_refused onBoundary refused verdict r _)
  · exact traps_of_takeTrap (exec_sw s rs1 r imm) (storeTo_refused onBoundary refused verdict _)
  · exact traps_of_takeTrap (exec_ld_wide wide r rs1 imm) (loadTo_misaligned off r _)
  · exact traps_of_takeTrap (exec_sd_wide wide rs1 r imm) (storeTo_misaligned off _)
  · exact traps_of_takeTrap (exec_ld_wide wide r rs1 imm) (loadTo_refused onBoundary refused verdict r _)
  · exact traps_of_takeTrap (exec_sd_wide wide rs1 r imm) (storeTo_refused onBoundary refused verdict _)
  · exact traps_of_illegal (exec_ld_narrow narrow r rs1 imm)
  · exact traps_of_illegal (exec_sd_narrow narrow rs1 r imm)

end Sys2Proof.Machine
end

/-! ### Base CSRs: the access of each by the six CSR instructions (R302, R321) -/

section
namespace Sys2Proof.Machine

section Fields

/-- A value of at most XLEN bits is its own XLEN-bit value. -/
theorem norm_eq_self {x : Xlen} {v : Word} (h : v.toNat < 2 ^ xlenBits x) : norm x v = v := by
  apply BitVec.eq_of_toNat_eq
  rw [norm_toNat, Nat.mod_eq_of_lt h]

/-- The low 32 bits of a value are those of its XLEN-bit value, for both XLEN. -/
theorem getLsbD_norm (x : Xlen) (v : Word) {k : Nat} (low : k < 32) : (norm x v).getLsbD k = v.getLsbD k := by
  cases x with
  | rv32 =>
    have inside : k < 64 := low.trans (by decide)
    simp [norm, low, inside]
  | rv64 => rfl

theorem extractLsb'_norm (x : Xlen) (v : Word) {k n : Nat} (low : k + n ≤ 32) :
    (norm x v).extractLsb' k n = v.extractLsb' k n := by
  apply BitVec.eq_of_getLsbD_eq
  intro j hj
  rw [BitVec.getLsbD_extractLsb', BitVec.getLsbD_extractLsb', getLsbD_norm x v (by omega)]

/-- Without the top bit of XLEN, a value is cut from its XLEN-bit value (R302, the interrupt bit of `mcause`). -/
theorem keepLow_norm (x : Xlen) (v : Word) : keepLow (xlenBits x - 1) (norm x v) = keepLow (xlenBits x - 1) v := by
  have below : (keepLow (xlenBits x - 1) v).toNat < 2 ^ xlenBits x :=
    (keepLow_lt _ v).trans_le (Nat.pow_le_pow_right Nat.two_pos (Nat.sub_le _ _))
  rw [← norm_keepLow, norm_eq_self below]

end Fields

section Addresses

/-- The address of a base CSR (R302). -/
def BaseCsr.addr : BaseCsr → CsrAddr
  | .mstatus => 0x300
  | .mtvec => 0x305
  | .mscratch => 0x340
  | .mepc => 0x341
  | .mcause => 0x342
  | .mtval => 0x343

/-- A base CSR among the CSRs of the hart (R302). -/
def BaseCsr.hartCsr : BaseCsr → HartCsr
  | .mstatus => .mstatus
  | .mtvec => .mtvec
  | .mscratch => .mscratch
  | .mepc => .mepc
  | .mcause => .mcause
  | .mtval => .mtval

theorem csrClass_baseCsr (b : BaseCsr) : csrClass b.addr = .base b := by cases b <;> decide

theorem BaseCsr.addr_inj {b b' : BaseCsr} (h : b.addr = b'.addr) : b = b' := by
  have classes := congrArg csrClass h
  rw [csrClass_baseCsr, csrClass_baseCsr] at classes
  cases classes
  rfl

/-- The pairs of an address and a CSR of R302 are those of the base CSRs. -/
theorem exists_baseCsr {a : CsrAddr} {r : HartCsr}
    (h : (a, r) ∈ [((0x300 : CsrAddr), HartCsr.mstatus), (0x305, .mtvec), (0x340, .mscratch), (0x341, .mepc),
      (0x342, .mcause), (0x343, .mtval)]) : ∃ b : BaseCsr, a = b.addr ∧ r = b.hartCsr := by
  simp only [List.mem_cons, List.not_mem_nil, or_false, Prod.mk.injEq] at h
  rcases h with h | h | h | h | h | h
  · exact ⟨.mstatus, h⟩
  · exact ⟨.mtvec, h⟩
  · exact ⟨.mscratch, h⟩
  · exact ⟨.mepc, h⟩
  · exact ⟨.mcause, h⟩
  · exact ⟨.mtval, h⟩

/-- Machine level reaches every base CSR, to read and to write (R164, R302). -/
theorem csrAllowed_baseCsr (b : BaseCsr) (fn : CsrFn) : csrAllowed b.addr fn .machine :=
  ⟨by cases b <;> decide, fun h => absurd h.2 (by cases b <;> decide)⟩

end Addresses

section Writes

variable (s : State)

theorem readBase_eq (b : BaseCsr) : s.readBase b = norm s.cfg.xlen (s.csr b.hartCsr) := by cases b <;> rfl

/-- A write of a base CSR is to that CSR of the hart: for every other pair of CSRs the equation is by computation. -/
theorem csr_writeBase_other (b : BaseCsr) {r : HartCsr} (other : r ≠ b.hartCsr) (v : Word) :
    (s.writeBase b v).csr r = s.csr r := by
  cases b <;> cases r <;> try rfl
  all_goals exact absurd rfl other

theorem writeBase_unchanged (b : BaseCsr) (v : Word) : Unchanged s (s.writeBase b v) [] [b.hartCsr] [] [] where
  regs := by cases b <;> exact fun _ _ => rfl
  csrs := fun _ hr => csr_writeBase_other s b (fun same => hr (List.mem_singleton.mpr same)) v
  ctxs := by cases b <;> exact fun _ _ _ _ => rfl
  bytes := by cases b <;> exact fun _ _ => rfl
  text := by cases b <;> rfl
  cfg := by cases b <;> rfl

theorem writeBase_priv (b : BaseCsr) (v : Word) : (s.writeBase b v).priv = s.priv := by cases b <;> rfl

theorem writeBase_pc (b : BaseCsr) (v : Word) : (s.writeBase b v).pc = s.pc := by cases b <;> rfl

/-- A written `MPP` that is an implemented level is the one `mstatus` keeps (R302). -/
theorem legalMpp_implemented {v : Word} {q : Priv} (implements : implemented s.cfg.modes q = true)
    (written : v.extractLsb' 11 2 = privCode q) : s.legalMpp v = q := by
  have level : mstatusMpp? v = some q := by rw [mstatusMpp?, written, privOfCode_privCode]
  unfold State.legalMpp
  rw [level]
  exact if_pos implements

/-- A write of `mstatus` keeps the two interrupt bits of the XLEN-bit value and some implemented level, the written one
if it is implemented (R302). -/
theorem mstatus_writeBase (v : Word) : ∃ p, implemented s.cfg.modes p = true ∧
    (s.writeBase .mstatus v).mstatus =
      mstatusOf ((norm s.cfg.xlen v).getLsbD 3) ((norm s.cfg.xlen v).getLsbD 7) p ∧
    ∀ q, implemented s.cfg.modes q = true → (norm s.cfg.xlen v).extractLsb' 11 2 = privCode q → p = q := by
  rw [getLsbD_norm _ _ (by decide), getLsbD_norm _ _ (by decide), extractLsb'_norm _ _ (by decide)]
  exact ⟨s.legalMpp v, implemented_legalMpp s v, rfl, fun q => legalMpp_implemented s⟩

/-- `mtvec` and `mepc` receive the XLEN-bit value with bits 1:0 cleared (R302). -/
theorem csr_writeBase_address {b : BaseCsr} (address : b = .mtvec ∨ b = .mepc) (v : Word) :
    (s.writeBase b v).csr b.hartCsr = norm s.cfg.xlen v &&& ~~~3#64 := by
  rcases address with rfl | rfl <;> rfl

/-- `mscratch` and `mtval` receive the XLEN-bit value (R302). -/
theorem csr_writeBase_word {b : BaseCsr} (word : b = .mscratch ∨ b = .mtval) (v : Word) :
    (s.writeBase b v).csr b.hartCsr = norm s.cfg.xlen v := by
  rcases word with rfl | rfl <;> rfl

/-- `mcause` receives the XLEN-bit value without its interrupt bit (R302). -/
theorem csr_writeBase_mcause (v : Word) : (s.writeBase .mcause v).csr .mcause =
    norm s.cfg.xlen v &&& BitVec.ofNat 64 (2 ^ (xlenBits s.cfg.xlen - 1) - 1) :=
  (keepLow_norm s.cfg.xlen v).symm

end Writes

section Instructions

variable {s : State} {i : Instr} {rd : Reg} {fn : CsrFn} {src : Word}

/-- A CSR instruction at a base CSR, at machine level, is the access (R161, R164). -/
theorem exec_baseCsr {b : BaseCsr} (form : CsrForm s i b.addr rd fn src) (level : s.priv = .machine) :
    exec i s = .next (s.baseAccess b fn src rd) := by
  have allowed : csrAllowed b.addr fn s.priv := level ▸ csrAllowed_baseCsr b fn
  rw [exec_csrForm form]
  unfold State.csrCommon
  rw [(csrDenied_iff _ fn s.priv).mpr allowed, csrClass_baseCsr]
  rfl

theorem baseAccess_read (b : BaseCsr) :
    s.baseAccess b .read src rd = (s.setX rd (norm s.cfg.xlen (s.csr b.hartCsr))).advance := by
  rw [← readBase_eq]
  rfl

theorem baseAccess_write (b : BaseCsr) (writes : fn ≠ .read) : s.baseAccess b fn src rd =
    ((s.writeBase b (accessed fn (norm s.cfg.xlen (s.csr b.hartCsr)) src)).setX rd
      (norm s.cfg.xlen (s.csr b.hartCsr))).advance := by
  unfold State.baseAccess
  rw [← readBase_eq, ← csrNew_eq_accessed]
  exact if_neg writes

theorem csr_setX_advance (t : State) (rd : Reg) (v : Word) (r : HartCsr) : (t.setX rd v).advance.csr r = t.csr r :=
  (csr_advance _ r).trans (csr_setDest t (some rd) v r)

end Instructions

/-- Settles O33: the read forms change `x[rd]` alone, the write forms the CSR too, each by its rule. -/
theorem baseCsrAccess : Obligations.BaseCsrAccess := by
  rintro s i a r rd fn src v form level pair rfl
  obtain ⟨b, rfl, rfl⟩ := exists_baseCsr pair
  have run := exec_baseCsr form level
  by_cases reads : fn = .read
  · subst reads
    rw [baseAccess_read] at run
    exact ⟨_, run, (advanced_setX (.refl s) rfl rfl rd _).weaken _, holds_setX_norm rfl rd _,
      fun _ => csr_setX_advance s rd _ _, fun writes => absurd rfl writes⟩
  · rw [baseAccess_write b reads] at run
    refine ⟨_, run, advanced_setX (writeBase_unchanged s b _) (writeBase_priv s b _) (writeBase_pc s b _) rd _,
      holds_setX_norm (writeBase_unchanged s b _).cfg rd _, fun read => absurd read reads, fun _ => ?_⟩
    rw [csr_setX_advance]
    refine ⟨fun status => ?_, fun address => ?_, fun word => ?_, fun cause => ?_⟩
    · obtain rfl := BaseCsr.addr_inj (b' := .mstatus) status
      rw [advance_mstatus, setX_mstatus]
      exact mstatus_writeBase s _
    · exact csr_writeBase_address s
        (address.imp (BaseCsr.addr_inj (b' := .mtvec)) (BaseCsr.addr_inj (b' := .mepc))) _
    · exact csr_writeBase_word s
        (word.imp (BaseCsr.addr_inj (b' := .mscratch)) (BaseCsr.addr_inj (b' := .mtval))) _
    · obtain rfl := BaseCsr.addr_inj (b' := .mcause) cause
      exact csr_writeBase_mcause s _

end Sys2Proof.Machine
end

/-! ### The level changes by exceptions and by `mret` alone (R320, R344, R356) -/

section
namespace Sys2Proof.Machine

/-- The level is kept, or an exception is taken. -/
def KeepsLevelOrTraps (s t : State) : Prop := t.priv = s.priv ∨ ∃ code tval, TrapEntered s t code tval

namespace KeepsLevelOrTraps

variable {s : State}

theorem takeTrap (cause : TrapCause) (tval : Word) : KeepsLevelOrTraps s (s.takeTrap cause tval) :=
  .inr ⟨_, _, takeTrap_entered s cause tval⟩

theorem illegal (insn : Insn) : KeepsLevelOrTraps s (s.illegal insn) := .inr ⟨_, _, illegal_entered s insn⟩

end KeepsLevelOrTraps

/-- An exception without a stated trap value is one whose `mtval` nothing constrains (R303, R344). -/
theorem trapFreeTval_entered (s : State) (cause : TrapCause) : TrapEntered s (s.trapFreeTval cause) cause.code none :=
  have entered := takeTrap_entered s.drawn cause s.free
  { entered with
    mtval := fun _ h => nomatch h
    rest := { entered.rest with csrs := fun r hr => (entered.rest.csrs r hr).trans (by cases r <;> rfl) } }

section Instructions

variable {s : State}

/-- Without built-in instructions a custom operation is illegal or completes at its level (R201, R202). -/
theorem customOp_level (hb : s.cfg.builtin = none) (kind : OpKind) (insn : Insn) (func : FuncId) (d0 d1 : Word)
    (dest : Option Reg) : KeepsLevelOrTraps s (s.customOp kind insn func d0 d1 dest) := by
  rcases customOp_cases s kind insn func d0 d1 dest with
    ⟨_, e⟩ | ⟨_, _, e⟩ | ⟨_, _, _, e⟩ | ⟨_, _, _, _, e⟩ <;> rw [e]
  · exact .inl (by simp)
  · exact .illegal insn
  · rw [builtin_eq_illegal hb]
    exact .illegal insn
  · have updated := decideOp_update s
      { cxu := selCxuId s.mcxSelector, state := selStateId s.mcxSelector, insn := insn, func := func,
        data0 := d0, data1 := d1 }
    exact .inl (updated.advanced _ dest _).level

theorem cxIsaAccess_level (insn : Insn) (r : CxIsaCsr) (fn : CsrFn) (src : Word) (rd : Reg) :
    KeepsLevelOrTraps s (s.cxIsaAccess insn r fn src rd) := by
  unfold State.cxIsaAccess
  dsimp only
  split
  · exact .illegal insn
  split
  · exact .inl (by simp)
  cases r with
  | cxIndex =>
    dsimp only
    rcases writeIndex_cases s (csrNew fn (s.readCxIsa .cxIndex) src) with ⟨e, _⟩ | ⟨cause, e, _⟩ <;> rw [e]
    · exact .inl (by simp)
    · exact .takeTrap cause _
  | cxStatus => exact .inl (by simp)
  | mcxSelector => exact .inl (by simp)
  | mcxTable => exact .inl (by simp)

theorem baseAccess_level (r : BaseCsr) (fn : CsrFn) (src : Word) (rd : Reg) :
    (s.baseAccess r fn src rd).priv = s.priv := by
  by_cases reads : fn = .read
  · subst reads
    rw [baseAccess_read]
    simp
  · rw [baseAccess_write r reads]
    simp [writeBase_priv]

theorem csrCommon_level (hb : s.cfg.builtin = none) (insn : Insn) (a : CsrAddr) (fn : CsrFn) (src : Word) (rd : Reg) :
    KeepsLevelOrTraps s (s.csrCommon insn a fn src rd) := by
  rcases csrCommon_cases s insn a fn src rd with
    ⟨_, e⟩ | ⟨_, ⟨r, _, e⟩ | ⟨_, e⟩ | ⟨r, _, e⟩ | ⟨_, e⟩⟩ <;> rw [e]
  · exact .illegal insn
  · exact cxIsaAccess_level insn r fn src rd
  · exact customOp_level hb _ insn _ src _ _
  · exact .inl (baseAccess_level r fn src rd)
  · exact .illegal insn

/-- Without built-in instructions, every effect but the return from an exception keeps the level or is an exception. -/
theorem Effect.level {i : Instr} {t : State} (hb : s.cfg.builtin = none) (h : Effect s i t) :
    KeepsLevelOrTraps s t ∨ (i = .mret ∧ s.priv = .machine) := by
  cases h with
  | result rd v => exact .inl (.inl (by simp))
  | next => exact .inl (.inl rfl)
  | goto => exact .inl (.inl rfl)
  | link rd v target => exact .inl (.inl (by simp))
  | store32 a v => exact .inl (.inl (by simp))
  | store64 a v => exact .inl (.inl (by simp))
  | trap cause tval => exact .inl (.takeTrap cause tval)
  | trapFree cause => exact .inl (.inr ⟨_, _, trapFreeTval_entered s cause⟩)
  | ret hi level => exact .inr ⟨hi, level⟩
  | csr => exact .inl (csrCommon_level hb _ _ _ _ _)
  | custom => exact .inl (customOp_level hb _ _ _ _ _ _)

end Instructions

/-- Settles O60: of the effects of an instruction, one that changes the level is an exception or the return. -/
theorem levelChanges : Obligations.LevelChanges := by
  intro s t i hb run changed
  rcases (exec_effect run).level hb with (kept | trapped) | returned
  · exact absurd kept changed
  · exact .inl trapped
  · exact .inr returned

end Sys2Proof.Machine
end

/-! ### Integer computational instructions, control transfer, `ecall` and `mret` (R305 to R310, R315 to R320) -/

section
namespace Sys2Proof.Machine

section Results

variable {s : State} {i : Instr} {rd : Reg} {v w : Word}

/-- A register holds every value that has the XLEN bits of one it holds (R12). -/
theorem State.holds.congr {t : State} (held : t.holds rd v) (value : norm t.cfg.xlen v = norm t.cfg.xlen w) :
    t.holds rd w := by
  unfold State.holds at *
  rw [held, value]

/-- An instruction that writes its destination and goes on completes with every value that has the XLEN bits of the
one written (R12, R305 to R310). -/
theorem completes_setX (run : exec i s = .next (s.setX rd v).advance) (value : norm s.cfg.xlen v = norm s.cfg.xlen w) :
    ∃ t, exec i s = .next t ∧ Advanced s t [rd] [] [] [] ∧ t.holds rd w := by
  have completed := advanced_setX (.refl s) rfl rfl rd v
  exact ⟨_, run, completed, (holds_setX_advance s rd v).congr (completed.cfg ▸ value)⟩

/-- The bits of a conjunction with an XLEN-bit value are those of the conjunction (R11, R308). -/
theorem norm_and_norm (x : Xlen) (v w : Word) : norm x (v &&& norm x w) = norm x (v &&& w) := by
  rw [BitVec.and_comm v, norm_and, norm_norm, ← norm_and, BitVec.and_comm w]

/-- A shift amount is illegal exactly where it is XLEN or more (R309). -/
theorem shamtIllegal_iff (s : State) (shamt : BitVec 6) :
    s.shamtIllegal shamt = true ↔ xlenBits s.cfg.xlen ≤ shamt.toNat := by
  unfold State.shamtIllegal
  cases s.cfg.xlen with
  | rv32 =>
    have top : shamt.getLsbD 5 = shamt.msb := rfl
    rw [top, BitVec.msb_eq_true_iff_two_mul_ge, xlenBits]
    omega
  | rv64 =>
    have inside := shamt.isLt
    rw [xlenBits]
    exact ⟨Bool.noConfusion, fun above => absurd above (by omega)⟩

end Results

/-- Settles O13: the immediate is sign-extended to XLEN before it is written. -/
theorem luiResult : Obligations.LuiResult := by
  intro s rd imm20
  exact ⟨rfl, completes_setX rfl (norm_norm _ _)⟩

/-- Settles O14: the immediate is cut to XLEN bits before the operation, the result after it. -/
theorem immediateResults : Obligations.ImmediateResults := by
  intro s rd rs1 imm
  exact ⟨⟨rfl, completes_setX rfl (norm_add_norm _ _ _)⟩, rfl, completes_setX rfl (norm_and_norm _ _ _)⟩

/-- Settles O15: the sum is the value written. -/
theorem addResult : Obligations.AddResult := by
  intro s rd rs1 rs2
  exact ⟨rfl, completes_setX rfl rfl⟩

section Shifts

variable {s : State} (rd rs1 : Reg) {shamt : BitVec 6}

theorem exec_slli : exec (.slli rd rs1 shamt) s = .next (if s.shamtIllegal shamt then
      s.illegal (encode s.cfg (.slli rd rs1 shamt)) else (s.setX rd (s.xr rs1 <<< shamt.toNat)).advance) := rfl

theorem exec_srli : exec (.srli rd rs1 shamt) s = .next (if s.shamtIllegal shamt then
      s.illegal (encode s.cfg (.srli rd rs1 shamt)) else (s.setX rd (s.xr rs1 >>> shamt.toNat)).advance) := rfl

end Shifts

/-- Settles O16: the shift amounts below XLEN, then those that are illegal. -/
theorem shiftResults : Obligations.ShiftResults := by
  intro s rd rs1 shamt
  refine ⟨rfl, rfl, fun below => ?_, fun above => ?_⟩
  · have legal : ¬s.shamtIllegal shamt = true := fun h => absurd ((shamtIllegal_iff s shamt).mp h) (by omega)
    exact ⟨completes_setX ((exec_slli rd rs1).trans (by rw [if_neg legal])) rfl,
      completes_setX ((exec_srli rd rs1).trans (by rw [if_neg legal])) rfl⟩
  · have illegal := (shamtIllegal_iff s shamt).mpr above
    exact ⟨traps_of_illegal ((exec_slli rd rs1).trans (by rw [if_pos illegal])),
      traps_of_illegal ((exec_srli rd rs1).trans (by rw [if_pos illegal]))⟩

section Jumps

variable {s : State} {i : Instr} {target : Word}

theorem jump_aligned (onBoundary : target &&& 3#64 = 0) (link : State → State) :
    s.jump target link = (link s).setPc target := if_pos onBoundary

theorem jump_misaligned (off : target &&& 3#64 ≠ 0) (link : State → State) :
    s.jump target link = s.trapFreeTval .instrMisaligned := if_neg off

/-- An instruction that jumps to no multiple of 4 raises instruction address misaligned, whatever it would link
(R315 to R317). -/
theorem traps_of_jump {link : State → State} (run : exec i s = .next (s.jump target link))
    (off : target &&& 3#64 ≠ 0) : ∃ t, exec i s = .next t ∧ TrapEntered s t 0 none := by
  rw [jump_misaligned off] at run
  exact ⟨_, run, trapFreeTval_entered s .instrMisaligned⟩

/-- What `beq` and `bne` do, from whether the branch is taken (R315, R316). -/
theorem exec_branch {rs1 rs2 : Reg} {off : BitVec 12} {taken : Prop}
    (form : (i = .beq rs1 rs2 off ∧ (taken ↔ s.xr rs1 = s.xr rs2)) ∨
      (i = .bne rs1 rs2 off ∧ (taken ↔ s.xr rs1 ≠ s.xr rs2))) :
    (taken → exec i s = .next (s.jump (s.branchTarget off) id)) ∧ (¬taken → exec i s = .next s.advance) := by
  have branches : ∃ b : Bool, exec i s = .next (s.branch b off) ∧ (b = true ↔ taken) := by
    rcases form with ⟨rfl, h⟩ | ⟨rfl, h⟩
    · exact ⟨s.xr rs1 == s.xr rs2, rfl, beq_iff_eq.trans h.symm⟩
    · exact ⟨s.xr rs1 != s.xr rs2, rfl, bne_iff_ne.trans h.symm⟩
  obtain ⟨b, run, hb⟩ := branches
  refine ⟨fun yes => ?_, fun no => ?_⟩
  · rw [run, State.branch, if_pos (hb.mpr yes)]
  · rw [run, State.branch, if_neg (no ∘ hb.mp)]

/-- A target that is an XLEN-bit address is where a transfer of control goes. -/
theorem setPc_norm_pc {t : State} (cfg : t.cfg = s.cfg) (v : Word) :
    (t.setPc (norm s.cfg.xlen v)).pc = norm s.cfg.xlen v := by
  rw [setPc_pc, cfg, norm_norm]

/-- The last write of `pc` is the one that counts. -/
theorem setPc_advance (t : State) (v : Word) : t.advance.setPc v = t.setPc v := rfl

/-- A transfer of control leaves what the instruction left before it: it writes `pc` alone. -/
theorem Unchanged.setPc {t : State} {regs : List Reg} {csrs : List HartCsr} {ctxs : List (BitVec 8 × BitVec 8)}
    {bytes : List Nat} (h : Unchanged s t regs csrs ctxs bytes) (v : Word) :
    Unchanged s (t.setPc v) regs csrs ctxs bytes :=
  { h with csrs := fun r hr => (show (t.setPc v).csr r = t.csr r by cases r <;> rfl).trans (h.csrs r hr) }

end Jumps

/-- Settles O20: a branch not taken goes on; a taken one is a jump that links nothing. -/
theorem branchResults : Obligations.BranchResults := by
  intro s rs1 rs2 off i taken form
  obtain ⟨jumps, goesOn⟩ := exec_branch form
  refine ⟨fun no => ?_, fun yes onBoundary => ?_, fun yes => traps_of_jump (jumps yes)⟩
  · exact ⟨_, goesOn no, { Unchanged.refl s with csrs := fun r _ => csr_advance s r, level := rfl, pc := rfl }⟩
  · have run := jumps yes
    rw [State.branchTarget, jump_aligned onBoundary] at run
    exact ⟨_, run, (Unchanged.refl s).setPc _, rfl, setPc_norm_pc rfl _⟩

/-- Settles O21: the target is checked before the link is written. -/
theorem jalResult : Obligations.JalResult := by
  intro s rd off
  refine ⟨rfl, fun onBoundary => ?_, traps_of_jump rfl⟩
  have run : exec (.jal rd off) s = .next (s.jump (s.jumpTarget off) fun t => t.setX rd (s.pc + 4)) := rfl
  have linked := advanced_setX (.refl s) rfl rfl rd (s.pc + 4)
  rw [State.jumpTarget, jump_aligned onBoundary, ← setPc_advance] at run
  exact ⟨_, run, linked.toUnchanged.setPc _, linked.level, holds_setX_advance s rd _, setPc_norm_pc linked.cfg _⟩

/-- Settles O22: the cause of each level has the code of the rule. -/
theorem ecallResult : Obligations.EcallResult := by
  intro s
  refine ⟨rfl, _, rfl, ?_⟩
  convert takeTrap_entered s (ecallCause s.priv) 0 using 1
  cases s.priv <;> rfl

section Return

variable {s t u : State} {regs : List Reg} {csrs : List HartCsr} {ctxs : List (BitVec 8 × BitVec 8)} {bytes : List Nat}

theorem Unchanged.trans (first : Unchanged s t regs csrs ctxs bytes) (second : Unchanged t u regs csrs ctxs bytes) :
    Unchanged s u regs csrs ctxs bytes where
  regs := fun j hj => (second.regs j hj).trans (first.regs j hj)
  csrs := fun r hr => (second.csrs r hr).trans (first.csrs r hr)
  ctxs := fun cx c i hc => (second.ctxs cx c i hc).trans (first.ctxs cx c i hc)
  bytes := fun a ha => (second.bytes a ha).trans (first.bytes a ha)
  text := second.text.trans first.text
  cfg := second.cfg.trans first.cfg

/-- What changes none of some CSRs changes none of more. -/
theorem Unchanged.weaken {more : List HartCsr} (h : Unchanged s t regs csrs ctxs bytes) (sub : csrs ⊆ more) :
    Unchanged s t regs more ctxs bytes :=
  { h with csrs := fun r hr => h.csrs r fun listed => hr (sub listed) }

/-- The return from an exception changes `mstatus`, the level and `pc` alone (R320). -/
theorem returnFromTrap_unchanged (s : State) : Unchanged s s.returnFromTrap [] [.mstatus] [] [] where
  regs := fun _ _ => rfl
  csrs := by
    intro r hr
    cases r with
    | mstatus => simp at hr
    | _ => rfl
  ctxs := fun _ _ _ _ => rfl
  bytes := fun _ _ => rfl
  text := rfl
  cfg := rfl

/-- The least privileged implemented level: user where it is implemented, else machine (R320). -/
theorem leastLevel_eq (modes : Modes) : leastLevel modes = if modes = .m then .machine else .user := by
  cases modes <;> rfl

theorem exec_mret_machine (level : s.priv = .machine) : exec .mret s = .next s.returnFromTrap :=
  congrArg _ (if_pos level)

theorem exec_mret_below (level : s.priv ≠ .machine) : exec .mret s = .next (s.illegal (encode s.cfg .mret)) :=
  congrArg _ (if_neg level)

end Return

/-- Settles O23: the return at machine level, the exception below. -/
theorem mretResult : Obligations.MretResult := by
  intro s
  refine ⟨rfl, fun p level saved => ?_, fun level => traps_of_illegal (exec_mret_below level)⟩
  have previous : mstatusMpp s.mstatus = p := by rw [mstatusMpp, saved, Option.getD_some]
  refine ⟨_, exec_mret_machine level, returnFromTrap_unchanged s, previous, rfl, ?_⟩
  rw [returnFromTrap_mstatus, leastLevel_eq]

/-- Settles O25: the return finds in `mstatus` and `mepc` what the exception saved there. -/
theorem trapThenReturn : Obligations.TrapThenReturn := by
  intro s c tval
  refine ⟨_, exec_mret_machine (takeTrap_priv s c tval), ?_, rfl, ?_, ?_⟩
  · rw [returnFromTrap_priv, takeTrap_mstatus, mpp_mstatusOf]
  · rw [returnFromTrap_mstatus, takeTrap_mstatus, mie_mstatusOf, mpie_mstatusOf]
  · exact (takeTrap_entered s c tval).rest.trans ((returnFromTrap_unchanged _).weaken (by simp))

end Sys2Proof.Machine
end

/-! ### Fetches that raise an exception (R301, R322) -/

section
namespace Sys2Proof.Machine

section Fetch

variable {s : State}

/-- Where the fetch is allowed and the bytes are no instruction, the step is the exception on the ticked state (R301). -/
theorem step_of_undecoded {e : DecodeError} (allowed : s.fetchAllowed = true)
    (undecodable : decode s.cfg s.fetchBytes = .error e) : step s = .next (s.tick.illegal s.fetchWord) := by
  obtain ⟨sameAllowed, sameBytes⟩ := fetch_tick s
  unfold step State.hartStep
  rw [sameAllowed, if_pos allowed, sameBytes, tick_cfg, undecodable]
  rfl

/-- Where the fetch is refused, the step is the exception on the ticked state (R301). -/
theorem step_of_refused (refused : s.fetchAllowed = false) : step s = .next (s.tick.trapFreeTval .instrAccess) := by
  obtain ⟨sameAllowed, _⟩ := fetch_tick s
  unfold step State.hartStep
  rw [sameAllowed, refused]
  rfl

end Fetch

/-- Settles O6: the exceptions of the two ways not to reach an instruction. -/
theorem fetchExceptions : Obligations.FetchExceptions := by
  intro s
  exact ⟨fun e allowed undecodable => ⟨_, step_of_undecoded allowed undecodable, illegal_entered s.tick _⟩,
    fun refused => ⟨_, step_of_refused refused, trapFreeTval_entered s.tick .instrAccess⟩⟩

end Sys2Proof.Machine
end

/-! ### Exception entry, and a refused implied load (R303, R343, R344, R346) -/

section
namespace Sys2Proof.Machine

section IndexFault

variable {s : State} {rd : Reg} {fn : CsrFn} {src : Word}

/-- A refused implied load leaves no state but the cause of its fault (R85, R346). -/
theorem writeIndex_refused {v : MemVerdict} {w : Word} (refused : v ≠ .allowed)
    (verdict : memCheck s.cfg (cxidxPriv s.cfg s.priv) (s.entryAddr (indexOf w)) 4 .load = v) :
    s.writeIndex w = .error (loadFaultCause v) := by
  unfold State.writeIndex
  dsimp only
  rw [verdict]
  cases v with
  | allowed => exact absurd rfl refused
  | accessFault => rfl
  | pageFault => rfl

/-- A writing access of `cx_index` whose implied load is refused is the exception alone: it comes before the write of
`x[rd]` (R176, R346). -/
theorem cxIsaAccess_cxIndex_refused {k : BitVec 10} {v : MemVerdict} (ac : s.cfg.accessControl = true)
    (writes : fn ≠ .read) (hk : k = (accessed fn (zextX s.cxIndex) src).extractLsb' 0 10) (refused : v ≠ .allowed)
    (verdict : memCheck s.cfg (cxidxPriv s.cfg s.priv) (s.entryAddr k) 4 .load = v) (insn : Insn) :
    s.cxIsaAccess insn .cxIndex fn src rd = s.takeTrap (loadFaultCause v) (s.entryAddr k) := by
  have index : k = indexOf (csrNew fn (zextX s.cxIndex) src) := by rw [csrNew_eq_accessed, hk, indexOf]
  subst index
  unfold State.cxIsaAccess
  simp [cxIsaExists, ac, writes, State.readCxIsa, writeIndex_refused refused verdict]

end IndexFault

/-- Settles O31: the access is the load fault of the refusal, and trap entry leaves all else alone. -/
theorem cxIndexFault : Obligations.CxIndexFault := by
  intro s i rd fn src k v form ac writes hk refused verdict
  rw [← loadFaultCause_code v]
  exact traps_of_takeTrap (exec_cxIndex form) (cxIsaAccess_cxIndex_refused ac writes hk refused verdict _)

/-- Settles O24: the entry of any exception, that of illegal-instruction, and the table of codes (R303). -/
theorem trapEntry : Obligations.TrapEntry := by
  intro s tval
  exact ⟨fun c => takeTrap_entered s c tval, illegal_entered s, rfl⟩

end Sys2Proof.Machine
end
